-- ==== Sys2Proof/Word.lean ====
section
/-!
DEFINITION. The machine's words: bytes, 16-bit words and the short fields of an instruction word, all
unsigned (spec 00_scope.md R12, R13). Register and key numbers are names of one of sixteen things, so
they are `Fin 16`, not bit vectors.
-/

namespace Sys2Proof

/-- An 8-bit value: a general register, a timer, a byte of memory (R20, R27, R33). -/
abbrev Byte := BitVec 8

/-- A 16-bit value: `pc`, `I`, a stack entry, an instruction word (R23, R24, R25, R70). -/
abbrev Word := BitVec 16

/-- A 4-bit field of an instruction word (R70). -/
abbrev Nibble := BitVec 4

/-- The 12-bit address field `nnn` (R70). -/
abbrev Addr12 := BitVec 12

/-- The number of a general register, 0..15 (R20). -/
abbrev Reg := Fin 16

/-- The number of a logical key, 0..15 (R32). -/
abbrev KeyIndex := Fin 16

/-- VF, register 15, the flag register (R21). -/
abbrev vf : Reg := 15

end Sys2Proof
end

