-- ==== Sys2Proof/Syntax.lean ====
section
/-!
DEFINITION. The instructions: one constructor for each of the 35 rows of spec/opcode_table.json, in the
table's order (30_encoding.md R74), each carrying the operand fields its pattern has (R15, R70); and
what a word decodes to, which is one of them or the explicit variant for every other word (R75).
-/

namespace Sys2Proof

/-- The 35 opcodes of R74. -/
inductive Instr where
  /-- `0NNN`, SYS nnn -/
  | sys (nnn : Addr12)
  /-- `00E0`, CLS -/
  | cls
  /-- `00EE`, RET -/
  | ret
  /-- `1NNN`, JP nnn -/
  | jp (nnn : Addr12)
  /-- `2NNN`, CALL nnn -/
  | call (nnn : Addr12)
  /-- `3XNN`, SE Vx, kk -/
  | seImm (x : Reg) (kk : Byte)
  /-- `4XNN`, SNE Vx, kk -/
  | sneImm (x : Reg) (kk : Byte)
  /-- `5XY0`, SE Vx, Vy -/
  | seReg (x y : Reg)
  /-- `6XNN`, LD Vx, kk -/
  | ldImm (x : Reg) (kk : Byte)
  /-- `7XNN`, ADD Vx, kk -/
  | addImm (x : Reg) (kk : Byte)
  /-- `8XY0`, LD Vx, Vy -/
  | ldReg (x y : Reg)
  /-- `8XY1`, OR Vx, Vy -/
  | orReg (x y : Reg)
  /-- `8XY2`, AND Vx, Vy -/
  | andReg (x y : Reg)
  /-- `8XY3`, XOR Vx, Vy -/
  | xorReg (x y : Reg)
  /-- `8XY4`, ADD Vx, Vy -/
  | addReg (x y : Reg)
  /-- `8XY5`, SUB Vx, Vy -/
  | subReg (x y : Reg)
  /-- `8XY6`, SHR Vx, with its unused `y` field -/
  | shr (x y : Reg)
  /-- `8XY7`, SUBN Vx, Vy -/
  | subnReg (x y : Reg)
  /-- `8XYE`, SHL Vx, with its unused `y` field -/
  | shl (x y : Reg)
  /-- `9XY0`, SNE Vx, Vy -/
  | sneReg (x y : Reg)
  /-- `ANNN`, LD I, nnn -/
  | ldI (nnn : Addr12)
  /-- `BNNN`, JP V0, nnn -/
  | jpV0 (nnn : Addr12)
  /-- `CXNN`, RND Vx, kk -/
  | rnd (x : Reg) (kk : Byte)
  /-- `DXYN`, DRW Vx, Vy, n -/
  | drw (x y : Reg) (n : Nibble)
  /-- `EX9E`, SKP Vx -/
  | skp (x : Reg)
  /-- `EXA1`, SKNP Vx -/
  | sknp (x : Reg)
  /-- `FX07`, LD Vx, DT -/
  | ldVxDt (x : Reg)
  /-- `FX0A`, LD Vx, K -/
  | ldVxK (x : Reg)
  /-- `FX15`, LD DT, Vx -/
  | ldDtVx (x : Reg)
  /-- `FX18`, LD ST, Vx -/
  | ldStVx (x : Reg)
  /-- `FX1E`, ADD I, Vx -/
  | addI (x : Reg)
  /-- `FX29`, LD F, Vx -/
  | ldF (x : Reg)
  /-- `FX33`, LD B, Vx -/
  | ldB (x : Reg)
  /-- `FX55`, LD [I], Vx -/
  | storeRegs (x : Reg)
  /-- `FX65`, LD Vx, [I] -/
  | loadRegs (x : Reg)
  deriving DecidableEq, Repr

/-- What `decode` answers: one of the 35 opcodes, or "an explicit 'unknown' variant carrying the raw
word" (R75, R76). -/
inductive Decoded where
  | instr (i : Instr)
  | unknown (w : Word)
  deriving DecidableEq, Repr

end Sys2Proof
end

