-- ==== Sys2Proof/WellFormed.lean ====
section
/-!
DEFINITION. Which instructions have an encoding of their own. Every operand's range is already in its
type; what is left is R75: in family 0 the words `00E0` and `00EE` are CLS and RET, so SYS does not take
the addresses 0x0E0 and 0x0EE (spec 30_encoding.md R74, R75).
-/

namespace Sys2Proof

/-- SYS may not carry the address whose word is CLS (R75). -/
def sysIsNotCls (nnn : Addr12) : Bool := nnn != 0x0E0#12

/-- SYS may not carry the address whose word is RET (R75). -/
def sysIsNotRet (nnn : Addr12) : Bool := nnn != 0x0EE#12

/-- The instruction has a word of its own. -/
def Instr.wellFormed : Instr → Bool
  | .sys nnn => sysIsNotCls nnn && sysIsNotRet nnn
  | .cls => true
  | .ret => true
  | .jp _ => true
  | .call _ => true
  | .seImm _ _ => true
  | .sneImm _ _ => true
  | .seReg _ _ => true
  | .ldImm _ _ => true
  | .addImm _ _ => true
  | .ldReg _ _ => true
  | .orReg _ _ => true
  | .andReg _ _ => true
  | .xorReg _ _ => true
  | .addReg _ _ => true
  | .subReg _ _ => true
  | .shr _ _ => true
  | .subnReg _ _ => true
  | .shl _ _ => true
  | .sneReg _ _ => true
  | .ldI _ => true
  | .jpV0 _ => true
  | .rnd _ _ => true
  | .drw _ _ _ => true
  | .skp _ => true
  | .sknp _ => true
  | .ldVxDt _ => true
  | .ldVxK _ => true
  | .ldDtVx _ => true
  | .ldStVx _ => true
  | .addI _ => true
  | .ldF _ => true
  | .ldB _ => true
  | .storeRegs _ => true
  | .loadRegs _ => true

end Sys2Proof
end

