-- ==== Sys2Proof/Decode.lean ====
section
/-!
DEFINITION. Decoding and encoding (spec 30_encoding.md R70 to R78, 20_memory.md R52). `decode` is pure
and total on the 65536 words (R75): an opcode, or `unknown` with the word. It goes in the two levels of
R73. `encode` is written from the same table. `opcodeRows` is that table's mask and
match columns (R74), against which both can be read.
-/

namespace Sys2Proof

/-! ## Words and bytes -/

/-- The big-endian word of two bytes, the one at the lower address first (R52). -/
def wordOfBytes (hi lo : Byte) : Word := hi ++ lo

/-- `w[15:8]`, the byte stored at the lower address (R53). -/
def hiByte (w : Word) : Byte := w.extractLsb' 8 8

/-- `w[7:0]`, the byte stored at the higher address (R53). -/
def loByte (w : Word) : Byte := w.extractLsb' 0 8

/-! ## Fields (R70) -/

/-- The register or key a 4-bit value names. -/
def regOfNibble (b : Nibble) : Reg := b.toFin

/-- The 4 bits that name a register. -/
def nibbleOfReg (x : Reg) : Nibble := BitVec.ofFin x

/-- `op = w[15:12]`, the family. -/
def opField (w : Word) : Nibble := w.extractLsb' 12 4

/-- `x = w[11:8]`. -/
def xField (w : Word) : Reg := regOfNibble (w.extractLsb' 8 4)

/-- `y = w[7:4]`. -/
def yField (w : Word) : Reg := regOfNibble (w.extractLsb' 4 4)

/-- `n = w[3:0]`. -/
def nField (w : Word) : Nibble := w.extractLsb' 0 4

/-- `kk = w[7:0]`. -/
def kkField (w : Word) : Byte := w.extractLsb' 0 8

/-- `nnn = w[11:0]`. -/
def nnnField (w : Word) : Addr12 := w.extractLsb' 0 12

/-! ## Decoding (R73, R75, R76) -/

/-- Family 0: `00E0` and `00EE` are tested first, every other word is SYS (R75). -/
def decodeFamily0 (w : Word) : Decoded :=
  if w = 0x00E0#16 then .instr .cls
  else if w = 0x00EE#16 then .instr .ret
  else .instr (.sys (nnnField w))

/-- Family 8, selected by `n` (R73, R74 rows 11 to 19). -/
def decodeFamily8 (w : Word) : Decoded :=
  match (nField w).toNat with
  | 0x0 => .instr (.ldReg (xField w) (yField w))
  | 0x1 => .instr (.orReg (xField w) (yField w))
  | 0x2 => .instr (.andReg (xField w) (yField w))
  | 0x3 => .instr (.xorReg (xField w) (yField w))
  | 0x4 => .instr (.addReg (xField w) (yField w))
  | 0x5 => .instr (.subReg (xField w) (yField w))
  | 0x6 => .instr (.shr (xField w) (yField w))
  | 0x7 => .instr (.subnReg (xField w) (yField w))
  | 0xE => .instr (.shl (xField w) (yField w))
  | _ => .unknown w

/-- Family E, selected by `kk` (R73, R74 rows 25 and 26). -/
def decodeFamilyE (w : Word) : Decoded :=
  match (kkField w).toNat with
  | 0x9E => .instr (.skp (xField w))
  | 0xA1 => .instr (.sknp (xField w))
  | _ => .unknown w

/-- Family F, selected by `kk` (R73, R74 rows 27 to 35). -/
def decodeFamilyF (w : Word) : Decoded :=
  match (kkField w).toNat with
  | 0x07 => .instr (.ldVxDt (xField w))
  | 0x0A => .instr (.ldVxK (xField w))
  | 0x15 => .instr (.ldDtVx (xField w))
  | 0x18 => .instr (.ldStVx (xField w))
  | 0x1E => .instr (.addI (xField w))
  | 0x29 => .instr (.ldF (xField w))
  | 0x33 => .instr (.ldB (xField w))
  | 0x55 => .instr (.storeRegs (xField w))
  | 0x65 => .instr (.loadRegs (xField w))
  | _ => .unknown w

/-- The decoder: "top nibble selects the family" (R73); pure and total (R75). -/
def decode (w : Word) : Decoded :=
  match (opField w).toNat with
  | 0x0 => decodeFamily0 w
  | 0x1 => .instr (.jp (nnnField w))
  | 0x2 => .instr (.call (nnnField w))
  | 0x3 => .instr (.seImm (xField w) (kkField w))
  | 0x4 => .instr (.sneImm (xField w) (kkField w))
  | 0x5 => if nField w = 0 then .instr (.seReg (xField w) (yField w)) else .unknown w
  | 0x6 => .instr (.ldImm (xField w) (kkField w))
  | 0x7 => .instr (.addImm (xField w) (kkField w))
  | 0x8 => decodeFamily8 w
  | 0x9 => if nField w = 0 then .instr (.sneReg (xField w) (yField w)) else .unknown w
  | 0xA => .instr (.ldI (nnnField w))
  | 0xB => .instr (.jpV0 (nnnField w))
  | 0xC => .instr (.rnd (xField w) (kkField w))
  | 0xD => .instr (.drw (xField w) (yField w) (nField w))
  | 0xE => decodeFamilyE w
  | _ => decodeFamilyF w

/-- The decoder on the two bytes of an instruction, lower address first (R52, R53). -/
def decodeBytes (hi lo : Byte) : Decoded := decode (wordOfBytes hi lo)

/-! ## Encoding -/

/-- A word of the shape `op nnn`. -/
def packNNN (op : Nibble) (nnn : Addr12) : Word := op ++ nnn

/-- A word of the shape `op x kk`. -/
def packXKK (op : Nibble) (x : Reg) (kk : Byte) : Word := (op ++ nibbleOfReg x : Byte) ++ kk

/-- A word of the shape `op x y n`. -/
def packXYN (op : Nibble) (x y : Reg) (n : Nibble) : Word :=
  (op ++ nibbleOfReg x : Byte) ++ (nibbleOfReg y ++ n : Byte)

/-- The instruction's word (R74, column "pattern"). -/
def encode : Instr → Word
  | .sys nnn => packNNN 0x0 nnn
  | .cls => 0x00E0
  | .ret => 0x00EE
  | .jp nnn => packNNN 0x1 nnn
  | .call nnn => packNNN 0x2 nnn
  | .seImm x kk => packXKK 0x3 x kk
  | .sneImm x kk => packXKK 0x4 x kk
  | .seReg x y => packXYN 0x5 x y 0x0
  | .ldImm x kk => packXKK 0x6 x kk
  | .addImm x kk => packXKK 0x7 x kk
  | .ldReg x y => packXYN 0x8 x y 0x0
  | .orReg x y => packXYN 0x8 x y 0x1
  | .andReg x y => packXYN 0x8 x y 0x2
  | .xorReg x y => packXYN 0x8 x y 0x3
  | .addReg x y => packXYN 0x8 x y 0x4
  | .subReg x y => packXYN 0x8 x y 0x5
  | .shr x y => packXYN 0x8 x y 0x6
  | .subnReg x y => packXYN 0x8 x y 0x7
  | .shl x y => packXYN 0x8 x y 0xE
  | .sneReg x y => packXYN 0x9 x y 0x0
  | .ldI nnn => packNNN 0xA nnn
  | .jpV0 nnn => packNNN 0xB nnn
  | .rnd x kk => packXKK 0xC x kk
  | .drw x y n => packXYN 0xD x y n
  | .skp x => packXKK 0xE x 0x9E
  | .sknp x => packXKK 0xE x 0xA1
  | .ldVxDt x => packXKK 0xF x 0x07
  | .ldVxK x => packXKK 0xF x 0x0A
  | .ldDtVx x => packXKK 0xF x 0x15
  | .ldStVx x => packXKK 0xF x 0x18
  | .addI x => packXKK 0xF x 0x1E
  | .ldF x => packXKK 0xF x 0x29
  | .ldB x => packXKK 0xF x 0x33
  | .storeRegs x => packXKK 0xF x 0x55
  | .loadRegs x => packXKK 0xF x 0x65

/-! ## The opcode map (R74) -/

/-- A row of the opcode map: mask, match, and the opcode with the operand fields of a word. -/
abbrev OpcodeRow := Word × Word × (Word → Instr)

/-- Row 1, SYS, whose match "applies only after `00E0` and `00EE` have failed" (R74, R75). -/
def rowSys : List OpcodeRow :=
  [(0xF000, 0x0000, fun w => .sys (nnnField w))]

/-- Rows 2 to 10 of R74. -/
def rows2to10 : List OpcodeRow :=
  [(0xFFFF, 0x00E0, fun _ => .cls),
   (0xFFFF, 0x00EE, fun _ => .ret),
   (0xF000, 0x1000, fun w => .jp (nnnField w)),
   (0xF000, 0x2000, fun w => .call (nnnField w)),
   (0xF000, 0x3000, fun w => .seImm (xField w) (kkField w)),
   (0xF000, 0x4000, fun w => .sneImm (xField w) (kkField w)),
   (0xF00F, 0x5000, fun w => .seReg (xField w) (yField w)),
   (0xF000, 0x6000, fun w => .ldImm (xField w) (kkField w)),
   (0xF000, 0x7000, fun w => .addImm (xField w) (kkField w))]

/-- Rows 11 to 20 of R74. -/
def rows11to20 : List OpcodeRow :=
  [(0xF00F, 0x8000, fun w => .ldReg (xField w) (yField w)),
   (0xF00F, 0x8001, fun w => .orReg (xField w) (yField w)),
   (0xF00F, 0x8002, fun w => .andReg (xField w) (yField w)),
   (0xF00F, 0x8003, fun w => .xorReg (xField w) (yField w)),
   (0xF00F, 0x8004, fun w => .addReg (xField w) (yField w)),
   (0xF00F, 0x8005, fun w => .subReg (xField w) (yField w)),
   (0xF00F, 0x8006, fun w => .shr (xField w) (yField w)),
   (0xF00F, 0x8007, fun w => .subnReg (xField w) (yField w)),
   (0xF00F, 0x800E, fun w => .shl (xField w) (yField w)),
   (0xF00F, 0x9000, fun w => .sneReg (xField w) (yField w))]

/-- Rows 21 to 35 of R74. -/
def rows21to35 : List OpcodeRow :=
  [(0xF000, 0xA000, fun w => .ldI (nnnField w)),
   (0xF000, 0xB000, fun w => .jpV0 (nnnField w)),
   (0xF000, 0xC000, fun w => .rnd (xField w) (kkField w)),
   (0xF000, 0xD000, fun w => .drw (xField w) (yField w) (nField w)),
   (0xF0FF, 0xE09E, fun w => .skp (xField w)),
   (0xF0FF, 0xE0A1, fun w => .sknp (xField w)),
   (0xF0FF, 0xF007, fun w => .ldVxDt (xField w)),
   (0xF0FF, 0xF00A, fun w => .ldVxK (xField w)),
   (0xF0FF, 0xF015, fun w => .ldDtVx (xField w)),
   (0xF0FF, 0xF018, fun w => .ldStVx (xField w)),
   (0xF0FF, 0xF01E, fun w => .addI (xField w)),
   (0xF0FF, 0xF029, fun w => .ldF (xField w)),
   (0xF0FF, 0xF033, fun w => .ldB (xField w)),
   (0xF0FF, 0xF055, fun w => .storeRegs (xField w)),
   (0xF0FF, 0xF065, fun w => .loadRegs (xField w))]

/-- The rows of R74 that are matched on their own, all but SYS. -/
def opcodeRows : List OpcodeRow := rows2to10 ++ rows11to20 ++ rows21to35

/-- "The `match` and `mask` columns select an opcode when `(w & mask) == match`" (R74). -/
abbrev OpcodeRow.selects (r : OpcodeRow) (w : Word) : Prop := w &&& r.1 = r.2.1

/-- The opcode a row makes of a word. -/
def OpcodeRow.instr (r : OpcodeRow) (w : Word) : Instr := r.2.2 w

/-! ## The host's view of the decoder -/

/-- The word of `nbits` bits that `w` is, every bit above them 0. -/
def tableWord (nbits w : Nat) : Word := BitVec.ofNat 16 (w % 2 ^ nbits)

/-- The instruction the decoder reads from a word numbered as spec/opcode_table.json numbers it: the
word is laid out as its two bytes, high byte at the lower address, and those bytes are decoded. -/
def decodeTableWord (nbits w : Nat) : Option Instr :=
  match decodeBytes (hiByte (tableWord nbits w)) (loByte (tableWord nbits w)) with
  | .instr i => some i
  | .unknown _ => none

end Sys2Proof
end

