-- ==== Sys2Proof/Config.lean ====
section
/-!
DEFINITION. What an implementation fixes: the parameters of spec 00_scope.md R8 and R9. R8's are
numbers. Of R9's, `FONT_BASE` stays open and `RND` is a free draw, so both are constants without a body
(nothing can be proved of their values but the bound the spec gives). `FONT_DATA` takes its default, in
Machine/Ops.lean (`fontData`), where a later repair may mend it; `KEY_INDEX_POLICY`, `FONT_INDEX_POLICY`
and `OOB_POLICY` take their only defined value, `fault`, in the meanings that check them
(notes/assumptions/1.md to 4.md).
-/

namespace Sys2Proof.Config

/-- `MEM_SIZE` (R8): the bytes of memory. -/
abbrev memSize : Nat := 4096

/-- `PROGRAM_BASE` (R8): where the ROM image starts and `pc` resets to. -/
abbrev programBase : Nat := 0x200

/-- `GLYPH_BYTES` (R8): the bytes of one glyph. -/
abbrev glyphBytes : Nat := 5

/-- The free value behind `FONT_BASE`: any number that meets `FONT_BASE + 80 <= 0x200`
(92_eei_decisions.md D11). -/
opaque fontBaseChoice : Fin 433

/-- `FONT_BASE` (R9): the address of glyph 0, left open by the spec (log 2). -/
def fontBase : Nat := fontBaseChoice.val

/-- `RND` (R9): the byte the `k`-th execution of CXNN draws, with no law (92_eei_decisions.md D13, log 1). -/
opaque rnd : Nat → Byte

end Sys2Proof.Config
end

