-- ==== Sys2Proof/Machine/State.lean ====
section
/-!
DEFINITION. The state of the block (spec 10_state.md R20 to R38), as plain data, and its value right
after reset (R40). Beside the spec's own state stand four fields of the model's own: `draws`, `events`,
`schedule` and `loadOpen` (notes/assumptions/1.md, 7.md, 8.md, 9.md).
-/

namespace Sys2Proof.Machine

/-- The fault kinds (60_exceptions.md R191). -/
inductive FaultKind where
  /-- `FETCH_OOB`: an instruction fetch past the end of memory (R192). -/
  | fetchOob
  /-- `STACK_OVERFLOW`: CALL with a full stack (R193). -/
  | stackOverflow
  /-- `STACK_UNDERFLOW`: RET with an empty stack (R194). -/
  | stackUnderflow
  /-- `MEM_OOB`: a data access past the end of memory (R195). -/
  | memOob
  /-- `OPERAND_RANGE`: a key or glyph operand above 15 (R196). -/
  | operandRange
  deriving DecidableEq, Repr

/-- The core's run state (R29). -/
inductive RunState where
  /-- Normal fetch, decode and execute. -/
  | running
  /-- Blocked until a key press; `r` receives the key. -/
  | awaitingKey (r : Reg)
  /-- Stopped by a fatal condition, with its record (R190). -/
  | faulted (kind : FaultKind) (addr : Word)
  deriving DecidableEq, Repr

/-- The output events a step can send to the host (40_cycle.md R92). -/
inductive Event where
  /-- `Diagnostic(ia, w)`: the unknown word `w` at `ia` (R94). -/
  | diagnostic (ia : Word) (w : Word)
  /-- `Fatal(kind, addr)`: entry to Faulted (R190). -/
  | fatal (kind : FaultKind) (addr : Word)
  /-- `Beep`: the sound timer's 1 to 0 tick (R165). -/
  | beep
  deriving DecidableEq, Repr

/-- One step of one agent (40_cycle.md R97, 00_scope.md R11). The pixel query changes nothing and is
no step (`State.pixels`). -/
inductive Action where
  /-- the core's cycle step -/
  | cycle
  /-- the host's `reset` -/
  | reset
  /-- the host's `load(rom)` -/
  | load (rom : List Byte)
  /-- the host's `key_down(k)` -/
  | keyDown (k : KeyIndex)
  /-- the host's `key_up(k)` -/
  | keyUp (k : KeyIndex)
  /-- the timebase's `tick_dt` -/
  | tickDt
  /-- the timebase's `tick_st` -/
  | tickSt
  deriving DecidableEq, Repr

/-- The screen: 32 rows of 64 pixels, `true` lit (R30). -/
abbrev Screen := Vector (Vector Bool 64) 32

/-- Memory: the bytes that differ from what an unlisted address reads as, by rising address. -/
abbrev Memory := List Host.Cell

/-- The state of the block. -/
structure State where
  /-- `V[0..15]` (R20) -/
  v : Vector Byte 16
  /-- `I` (R24) -/
  i : Word
  /-- the program counter (R23) -/
  pc : Word
  /-- the count of stack entries in use, 0..16 (R26) -/
  sp : Fin 17
  /-- `stack[0..15]` (R25) -/
  stack : Vector Word 16
  /-- `DT`, the delay timer (R27) -/
  dt : Byte
  /-- `ST`, the sound timer (R27) -/
  st : Byte
  /-- the run state (R29) -/
  run : RunState
  /-- `Px` (R30) -/
  screen : Screen
  /-- `Key[0..15]`, `true` pressed (R32) -/
  keys : Vector Bool 16
  /-- `LastKey` (R32) -/
  lastKey : Option KeyIndex
  /-- `M` (R33) -/
  mem : Memory
  /-- the display-changed flag the last cycle step returned (R34) -/
  draw : Bool
  /-- the model's own: how many bytes CXNN has drawn (log 1) -/
  draws : Nat
  /-- the model's own: the output events sent so far, oldest first (log 8) -/
  events : List Event
  /-- the model's own: the agents' next actions, first one first (log 7) -/
  schedule : List Action
  /-- the model's own: no core step has been taken since reset, so `load` is allowed (log 9) -/
  loadOpen : Bool
  deriving DecidableEq, Repr

/-- Why `step` stops the machine. -/
inductive Fault where
  /-- Raised by the core's cycle step in `Faulted(kind, addr)`: "the core has no step at all" (R91,
  R200). Safe: the hardware's process has stopped too. No instruction raises it (log 6). -/
  | stopped (kind : FaultKind) (addr : Word)
  deriving DecidableEq, Repr

/-- Why the model rejects what it is asked to do. -/
inductive Refusal where
  /-- An instruction without a meaning yet, in its arm of `exec`; no arm raises it. Safe. -/
  | notModelled (mnemonic : String)
  /-- Raised by a host or timebase action while the core is faulted: not allowed by R97 (log 19). Safe. -/
  | actionWhileFaulted
  /-- Raised by `tick_dt` or `tick_st` when its timer is 0: not allowed by R164 (log 19). Safe. -/
  | tickAtZero
  /-- Raised by `load` after the first core step: not allowed by R97 (logs 9 and 19). Safe. -/
  | loadAfterFirstStep
  /-- Raised by `load` of an image that does not fit: the `LoadError` of R212 (log 19). Safe. -/
  | loadError
  deriving DecidableEq, Repr

/-- The outcome of a step, an instruction or an action. -/
abbrev Outcome := Host.Outcome State Fault Refusal

/-- The machine right after reset (R40, R210). Memory lists nothing: an unlisted address reads as its
reset contents (log 11). -/
def State.reset : State where
  v := Vector.replicate 16 0
  i := 0
  pc := 0x200
  sp := 0
  stack := Vector.replicate 16 0
  dt := 0
  st := 0
  run := .running
  screen := Vector.replicate 32 (Vector.replicate 64 false)
  keys := Vector.replicate 16 false
  lastKey := none
  mem := []
  draw := false
  draws := 0
  events := []
  schedule := []
  loadOpen := true

end Sys2Proof.Machine
end

