-- ==== Sys2Proof/Machine/Ops.lean ====
section
/-!
DEFINITION. The named operations: memory (20_memory.md R50 to R57), the registers and the other state,
the call stack, the screen's pixels, the advance and the wrap of `pc` around an instruction (40_cycle.md
R90, R96), and raising a fault (60_exceptions.md R190). There is no trap-return instruction and `Faulted`
has no exit (R200), so no operation returns from a fault.
-/

namespace Sys2Proof.Machine

/-! ## The glyph set (R45) -/

/-- `FONT_BASE` as the machine uses it (log 2). -/
def fontBase : Nat := Config.fontBase

/-- The glyphs of the digits 0 to 7 (10_state.md R45). -/
def glyphsLow : List Byte :=
  [0xF0, 0x90, 0x90, 0x90, 0xF0,
   0x20, 0x60, 0x20, 0x20, 0x70,
   0xF0, 0x10, 0xF0, 0x80, 0xF0,
   0xF0, 0x10, 0xF0, 0x10, 0xF0,
   0x90, 0x90, 0xF0, 0x10, 0x10,
   0xF0, 0x80, 0xF0, 0x10, 0xF0,
   0xF0, 0x80, 0xF0, 0x90, 0xF0,
   0xF0, 0x10, 0x20, 0x40, 0x40]

/-- The glyphs of the digits 8 to F (10_state.md R45). -/
def glyphsHigh : List Byte :=
  [0xF0, 0x90, 0xF0, 0x90, 0xF0,
   0xF0, 0x90, 0xF0, 0x10, 0xF0,
   0xF0, 0x90, 0xF0, 0x90, 0x90,
   0xE0, 0x90, 0xE0, 0x90, 0xE0,
   0xF0, 0x80, 0x80, 0x80, 0xF0,
   0xE0, 0x90, 0x90, 0x90, 0xE0,
   0xF0, 0x80, 0xF0, 0x80, 0xF0,
   0xF0, 0x80, 0xF0, 0x80, 0x80]

/-- `FONT_DATA` (00_scope.md R9): the 80 glyph bytes, at the spec's default (D12, log 3). -/
def fontData : List Byte := glyphsLow ++ glyphsHigh

/-! ## Memory -/

/-- The byte of the glyph set at an address at or above `FONT_BASE`, and 0 past its end (R45). -/
def glyphByte (a : Nat) : Byte := (fontData[a - fontBase]?).getD 0

/-- What an unlisted address reads as: its reset contents (R33, R40, R58). The glyph set lies below
`PROGRAM_BASE`, whatever `FONT_BASE` is (D11). -/
def Memory.unlisted (a : Nat) : Byte :=
  if a < Config.programBase then
    if fontBase ≤ a then glyphByte a else 0
  else 0

/-- The byte at an address (R57). -/
def Memory.read : Memory → Nat → Byte
  | [], a => Memory.unlisted a
  | c :: m, a => if c.1 = a then c.2 else Memory.read m a

/-- The memory without any entry for an address. -/
def Memory.erase (m : Memory) (a : Nat) : Memory := m.filter (fun c => c.1 ≠ a)

/-- Put an entry before the first one of a greater address. -/
def Memory.insert (a : Nat) (b : Byte) : Memory → Memory
  | [] => [(a, b)]
  | c :: m => if a < c.1 then (a, b) :: c :: m else c :: Memory.insert a b m

/-- Write one byte, keeping the canonical form: a byte equal to what an unlisted address reads as is not
listed. -/
def Memory.write (m : Memory) (a : Nat) (b : Byte) : Memory :=
  if b = Memory.unlisted a then Memory.erase m a else Memory.insert a b (Memory.erase m a)

/-- Write bytes at consecutive rising addresses (R55). -/
def Memory.writeRange : Memory → Nat → List Byte → Memory
  | m, _, [] => m
  | m, a, b :: bs => Memory.writeRange (Memory.write m a b) (a + 1) bs

/-- Read `n` bytes at consecutive rising addresses (R14, `MemRead`). -/
def Memory.readRange (m : Memory) (a : Nat) : Nat → List Byte
  | 0 => []
  | n + 1 => Memory.read m a :: Memory.readRange m (a + 1) n

/-- The addresses rise strictly, from at least `lo`. -/
def Memory.sortedFrom (lo : Nat) : Memory → Bool
  | [] => true
  | c :: m => decide (lo ≤ c.1) && Memory.sortedFrom (c.1 + 1) m

/-- The canonical form: strictly rising addresses, all inside memory, and no entry equal to what an
unlisted address reads as. -/
def Memory.wf (m : Memory) : Bool :=
  Memory.sortedFrom 0 m && m.all (fun c => decide (c.1 < Config.memSize) && c.2 != Memory.unlisted c.1)

/-- The whole span of an access is in bounds: `addr + n <= MEM_SIZE`, computed without wrap (R51). -/
abbrev spanInBounds (addr : Word) (n : Nat) : Prop := addr.toNat + n ≤ Config.memSize

/-! ## Registers and the other state -/

/-- `V[x]` (R14). -/
def State.reg (s : State) (x : Reg) : Byte := s.v[x]

/-- `V[x] <- b` (R14). -/
def State.setReg (s : State) (x : Reg) (b : Byte) : State := { s with v := s.v.set x b }

/-- `V` as a whole, for FX65. -/
def State.setV (s : State) (v : Vector Byte 16) : State := { s with v := v }

/-- `I <- a`. -/
def State.setI (s : State) (a : Word) : State := { s with i := a }

/-- `pc <- target`. -/
def State.setPc (s : State) (a : Word) : State := { s with pc := a }

/-- `DT <- b`. -/
def State.setDt (s : State) (b : Byte) : State := { s with dt := b }

/-- `ST <- b`. -/
def State.setSt (s : State) (b : Byte) : State := { s with st := b }

/-- `run <- r`. -/
def State.setRun (s : State) (r : RunState) : State := { s with run := r }

/-- Replace the screen. -/
def State.setScreen (s : State) (p : Screen) : State := { s with screen := p }

/-- `Key[k] <- b`. -/
def State.setKey (s : State) (k : KeyIndex) (b : Bool) : State := { s with keys := s.keys.set k b }

/-- `Key[k]` (R14). -/
def State.key (s : State) (k : KeyIndex) : Bool := s.keys[k]

/-- `LastKey <- k`. -/
def State.setLastKey (s : State) (k : Option KeyIndex) : State := { s with lastKey := k }

/-- Replace memory. -/
def State.setMem (s : State) (m : Memory) : State := { s with mem := m }

/-- `draw <- b` (R34). -/
def State.setDraw (s : State) (b : Bool) : State := { s with draw := b }

/-- `emit e` (R14, R92). -/
def State.emit (s : State) (e : Event) : State := { s with events := s.events ++ [e] }

/-- The byte the next CXNN draws (R143, log 1). -/
def State.nextDraw (s : State) : Byte := Config.rnd s.draws

/-- Count one draw, so that the next one is another free value (log 1). -/
def State.countDraw (s : State) : State := { s with draws := s.draws + 1 }

/-- Replace the agents' next actions (log 7). -/
def State.setSchedule (s : State) (l : List Action) : State := { s with schedule := l }

/-- A core step is taken: `load` is no longer allowed (R97, log 9). -/
def State.closeLoad (s : State) : State := { s with loadOpen := false }

/-- `run` is not `Faulted` (R97). -/
def State.live (s : State) : Bool :=
  match s.run with
  | .running => true
  | .awaitingKey _ => true
  | .faulted _ _ => false

/-! ## The call stack (R25, R26) -/

/-- `stack[k]`. -/
def State.stackAt (s : State) (k : Fin 16) : Word := s.stack[k]

/-- One more entry in use; the caller has checked that the stack is not full. -/
def spUp (k : Fin 17) : Fin 17 := ⟨min (k.val + 1) 16, by omega⟩

/-- One entry less in use; the caller has checked that the stack is not empty. -/
def spDown (k : Fin 17) : Fin 17 := ⟨k.val - 1, by omega⟩

/-- The entry a push writes: `stack[sp]`, when the stack is not full. -/
def pushSlot (k : Fin 17) : Fin 16 := ⟨min k.val 15, by omega⟩

/-- The entry a pop reads: `stack[sp - 1]`, when the stack is not empty. -/
def popSlot (k : Fin 17) : Fin 16 := ⟨k.val - 1, by omega⟩

/-- "A push writes `stack[sp]` and then increments `sp`" (R26). -/
def State.push (s : State) (a : Word) : State :=
  { s with stack := s.stack.set (pushSlot s.sp) a, sp := spUp s.sp }

/-- "A pop decrements `sp`"; the entry itself is not cleared (R25, R26). -/
def State.pop (s : State) : State := { s with sp := spDown s.sp }

/-- The return address a pop reads (R26, R110). -/
def State.popped (s : State) : Word := s.stackAt (popSlot s.sp)

/-! ## Pixels (R30, R31) -/

/-- `Px[x][y]`: column `x`, row `y`. -/
def Screen.px (p : Screen) (x : Fin 64) (y : Fin 32) : Bool := p[y][x]

/-- `Px[x][y] <- Px[x][y] ^ 1`. -/
def Screen.flip (p : Screen) (x : Fin 64) (y : Fin 32) : Screen := p.set y (p[y].set x (!p[y][x]))

/-- Every pixel unlit (R180). -/
def Screen.clear : Screen := Vector.replicate 32 (Vector.replicate 64 false)

/-- A pixel as the host sees it: one byte valued 0 or 1 (R30). -/
def pixelByte (lit : Bool) : Byte := if lit then 1 else 0

/-- The pixel query: 2048 bytes, byte `y * 64 + x` is `Px[x][y]` (R31, R97). -/
def State.pixels (s : State) : List Byte := s.screen.toList.flatMap (fun row => row.toList.map pixelByte)

/-! ## Around an instruction (R90, R96) -/

/-- What a step does before `Execute`: `draw <- 0` and `pc <- ia + 2` (R90). -/
def State.advance (s : State) : State := (s.setDraw false).setPc (s.pc + 2)

/-- `pc mod MEM_SIZE` (R96). -/
def wrapAddr (a : Word) : Word := BitVec.ofNat 16 (a.toNat % Config.memSize)

/-- What a step does after `Execute`: `pc <- pc mod MEM_SIZE` (R90, R96). -/
def State.wrapPc (s : State) : State := s.setPc (wrapAddr s.pc)

/-- Run an instruction's effect `f` to its end: advance, the effect, the wrap (R90). -/
def complete (f : State → State) (s : State) : Outcome := .next (f s.advance).wrapPc

/-! ## Taking an exception (R190) -/

/-- `raise Fault(kind, addr)`, on the state at the start of the step: nothing is written but `run`, so
`pc` keeps `ia`, and `Fatal(kind, addr)` is sent (R190). It is a next state; the step after it stops
(logs 5 and 6). -/
def raiseFault (k : FaultKind) (addr : Word) (s : State) : Outcome :=
  .next ((s.setRun (.faulted k addr)).emit (.fatal k addr))

/-- The code of a fault kind (R191). -/
def FaultKind.code : FaultKind → Nat
  | .fetchOob => 1
  | .stackOverflow => 2
  | .stackUnderflow => 3
  | .memOob => 4
  | .operandRange => 5

/-- A data access of `n` bytes at `I`: `MEM_OOB` with `addr = I` unless the whole span is in bounds, and
otherwise the effect `f` (R51, R156, R195). -/
def accessAtI (n : Nat) (f : State → State) (s : State) : Outcome :=
  if spanInBounds s.i n then complete f s else raiseFault .memOob s.i s

end Sys2Proof.Machine
end

