-- ==== Sys2Proof/Machine/Operands.lean ====
section
/-!
DEFINITION. The operand forms (00_scope.md R15, 30_encoding.md R72, 44_index_memory.md R156): register
operands, unsigned immediates, the 12-bit address, the memory span at `I`, and the two registers whose
value names something (a key, R125; a glyph, R152).
-/

namespace Sys2Proof.Machine

/-- `zext_16(nnn)` (R72). -/
def addrOperand (nnn : Addr12) : Word := nnn.setWidth 16

/-- `zext_16(nnn) + zext_16(V[0])` (R113). -/
def indirectTarget (nnn : Addr12) (v0 : Byte) : Word := nnn.setWidth 16 + v0.setWidth 16

/-- A register value that names one of sixteen things: a key (R125) or a hexadecimal digit (R152). -/
def sixteenth (b : Byte) : Option (Fin 16) := if h : b.toNat < 16 then some ⟨b.toNat, h⟩ else none

/-- A key number as the byte a key wait delivers (R167). -/
def keyByte (k : KeyIndex) : Byte := BitVec.ofNat 8 k.val

/-- The address of glyph `d`: `FONT_BASE + 5 * d` (R45, R152). -/
def glyphAddr (d : Fin 16) : Word := BitVec.ofNat 16 (fontBase + Config.glyphBytes * d.val)

/-- `(I + V[x]) mod MEM_SIZE` (R151). -/
def indexSum (i : Word) (b : Byte) : Word := BitVec.ofNat 16 ((i.toNat + b.toNat) % Config.memSize)

/-- The address a data access at `I` starts at; byte `k` of it is at `I + k` (R156). -/
def State.dataAddr (s : State) : Nat := s.i.toNat

/-- The number of registers FX55 and FX65 move: `x + 1` (R55). -/
def regCount (x : Reg) : Nat := x.val + 1

/-- `V[0]` to `V[x]`, in ascending order (R154). -/
def State.regsUpTo (s : State) (x : Reg) : List Byte := s.v.toList.take (regCount x)

/-- `V[r] <- M[I + r]` for `r` in 0..x; the registers above `x` keep their values (R155). -/
def State.regsFromMem (s : State) (x : Reg) : Vector Byte 16 :=
  Vector.ofFn (fun r : Fin 16 => if r.val ≤ x.val then s.mem.read (s.dataAddr + r.val) else s.v[r])

/-- The binary-coded decimal digits of a byte: hundreds, tens, units (R153). -/
def bcdDigits (b : Byte) : List Byte :=
  [BitVec.ofNat 8 (b.toNat / 100), BitVec.ofNat 8 (b.toNat / 10 % 10), BitVec.ofNat 8 (b.toNat % 10)]

end Sys2Proof.Machine
end

