-- ==== Sys2Proof/Machine/Flags.lean ====
section
/-!
DEFINITION. The 8-bit results and the flag computations (43_register_alu.md R130, R131): every sum and
difference is exact, then reduced modulo 256; the flag is a byte 0 or 1 and is written to VF last.
-/

namespace Sys2Proof.Machine

/-- A condition as the byte VF holds. -/
def flagByte (c : Bool) : Byte := if c then 1 else 0

/-- `(a + b) mod 256` (R130). -/
def sumByte (a b : Byte) : Byte := BitVec.ofNat 8 ((a.toNat + b.toNat) % 256)

/-- `(a - b) mod 256`, the least non-negative remainder (R13, R130). -/
def diffByte (a b : Byte) : Byte := BitVec.ofInt 8 (((a.toNat : Int) - (b.toNat : Int)) % 256)

/-- `v >> 1` (R140). -/
def shrByte (v : Byte) : Byte := BitVec.ofNat 8 (v.toNat / 2)

/-- `(v << 1) mod 256` (R142). -/
def shlByte (v : Byte) : Byte := BitVec.ofNat 8 (v.toNat * 2 % 256)

/-- The carry of an addition: `a + b > 255` (R130). -/
def carryFlag (a b : Byte) : Byte := flagByte (decide (a.toNat + b.toNat > 255))

/-- The "no borrow" of a subtraction `a - b`: `a >= b` (R130). -/
def noBorrowFlag (a b : Byte) : Byte := flagByte (decide (a.toNat ≥ b.toNat))

/-- The bit a right shift puts out: `v & 1` (R140). -/
def shrFlag (v : Byte) : Byte := v &&& 1

/-- The bit a left shift puts out: `v >> 7` (R142). -/
def shlFlag (v : Byte) : Byte := v >>> 7

/-- Write a result and then the flag, so that the flag wins when `x` is 15 (R131). -/
def State.setRegThenFlag (s : State) (x : Reg) (result flag : Byte) : State :=
  (s.setReg x result).setReg vf flag

end Sys2Proof.Machine
end

