-- ==== Sys2Proof/Machine/Alu.lean ====
section
/-!
DEFINITION. Register loads, arithmetic, logic, shifts and random (43_register_alu.md R130 to R143). Every
operand is read before any write of the step (00_scope.md R14, R131).
-/

namespace Sys2Proof.Machine

/-- `LD Vx, kk` (R132). -/
def execLdImm (x : Reg) (kk : Byte) (s : State) : Outcome := complete (fun t => t.setReg x kk) s

/-- `ADD Vx, kk`, without a carry flag (R133). -/
def execAddImm (x : Reg) (kk : Byte) (s : State) : Outcome :=
  complete (fun t => t.setReg x (sumByte (t.reg x) kk)) s

/-- `LD Vx, Vy` (R134). -/
def execLdReg (x y : Reg) (s : State) : Outcome := complete (fun t => t.setReg x (t.reg y)) s

/-- `OR Vx, Vy`; VF is not written as a flag (R135, D4). -/
def execOrReg (x y : Reg) (s : State) : Outcome :=
  complete (fun t => t.setReg x (t.reg x ||| t.reg y)) s

/-- `AND Vx, Vy` (R136, D4). -/
def execAndReg (x y : Reg) (s : State) : Outcome :=
  complete (fun t => t.setReg x (t.reg x &&& t.reg y)) s

/-- `XOR Vx, Vy` (R137, D4). -/
def execXorReg (x y : Reg) (s : State) : Outcome :=
  complete (fun t => t.setReg x (t.reg x ^^^ t.reg y)) s

/-- `ADD Vx, Vy`, VF the carry (R138). -/
def execAddReg (x y : Reg) (s : State) : Outcome :=
  complete (fun t =>
    t.setRegThenFlag x (sumByte (t.reg x) (t.reg y)) (carryFlag (t.reg x) (t.reg y))) s

/-- `SUB Vx, Vy`, VF the no-borrow of `V[x] - V[y]` (R139). -/
def execSubReg (x y : Reg) (s : State) : Outcome :=
  complete (fun t =>
    t.setRegThenFlag x (diffByte (t.reg x) (t.reg y)) (noBorrowFlag (t.reg x) (t.reg y))) s

/-- `SHR Vx`, VF the bit shifted out; `y` is ignored (R140). -/
def execShr (x _y : Reg) (s : State) : Outcome :=
  complete (fun t => t.setRegThenFlag x (shrByte (t.reg x)) (shrFlag (t.reg x))) s

/-- `SUBN Vx, Vy`, VF the no-borrow of `V[y] - V[x]` (R141). -/
def execSubnReg (x y : Reg) (s : State) : Outcome :=
  complete (fun t =>
    t.setRegThenFlag x (diffByte (t.reg y) (t.reg x)) (noBorrowFlag (t.reg y) (t.reg x))) s

/-- `SHL Vx`, VF the bit shifted out; `y` is ignored (R142). -/
def execShl (x _y : Reg) (s : State) : Outcome :=
  complete (fun t => t.setRegThenFlag x (shlByte (t.reg x)) (shlFlag (t.reg x))) s

/-- `RND Vx, kk`: a free draw, masked (R143, D13, log 1). -/
def execRnd (x : Reg) (kk : Byte) (s : State) : Outcome :=
  complete (fun t => (t.setReg x (t.nextDraw &&& kk)).countDraw) s

end Sys2Proof.Machine
end

