-- ==== Sys2Proof/Machine/ControlFlow.lean ====
section
/-!
DEFINITION. SYS (40_cycle.md R95) and control transfer (41_control_flow.md R110 to R113). Each meaning
takes the state at the start of the step and answers the state after it, the advance and the wrap of
`pc` included (R90).
-/

namespace Sys2Proof.Machine

/-- `SYS nnn`: a no-op (R95, D2). -/
def execSys (_nnn : Addr12) (s : State) : Outcome := complete id s

/-- `RET` (R110). -/
def execRet (s : State) : Outcome :=
  if s.sp = 0 then raiseFault .stackUnderflow s.pc s
  else complete (fun t => t.pop.setPc t.popped) s

/-- `JP nnn` (R111). -/
def execJp (nnn : Addr12) (s : State) : Outcome := complete (fun t => t.setPc (addrOperand nnn)) s

/-- `CALL nnn` (R112): the pushed address is `ia + 2`, not yet wrapped. -/
def execCall (nnn : Addr12) (s : State) : Outcome :=
  if s.sp = 16 then raiseFault .stackOverflow s.pc s
  else complete (fun t => (t.push t.pc).setPc (addrOperand nnn)) s

/-- `JP V0, nnn` (R113, D5). -/
def execJpV0 (nnn : Addr12) (s : State) : Outcome :=
  complete (fun t => t.setPc (indirectTarget nnn (t.reg 0))) s

end Sys2Proof.Machine
end

