-- ==== Sys2Proof/Machine/Graphics.lean ====
section
/-!
DEFINITION. The graphics unit (46_graphics.md R180 to R182): the compositing primitive `DrawSprite`, CLS
and DRW.
-/

namespace Sys2Proof.Machine

/-- One bit of a sprite row at column `x`, row `y`: past the right edge it is dropped, a clear bit leaves
its pixel alone, a set bit collides with a lit pixel and flips it (R181). -/
def drawBit (x : Nat) (y : Fin 32) (on : Bool) (acc : Screen × Bool) : Screen × Bool :=
  if h : x < 64 then
    if on then (Screen.flip acc.1 ⟨x, h⟩ y, acc.2 || Screen.px acc.1 ⟨x, h⟩ y) else acc
  else acc

/-- Bits `b` of a sprite row for `b` in `k .. 7`, given as `8 - k` bits still to draw; bit 7 of the byte is
the leftmost (R181). -/
def drawRowFrom (x0 : Nat) (y : Fin 32) (row : Byte) : Nat → Screen × Bool → Screen × Bool
  | 0, acc => acc
  | k + 1, acc => drawRowFrom x0 y row k (drawBit (x0 + (7 - k)) y (row.getLsbD k) acc)

/-- The rows of a sprite from row `y` of the screen downward; rows below the bottom edge are dropped (R181). -/
def drawRows (x0 : Nat) : Nat → List Byte → Screen × Bool → Screen × Bool
  | _, [], acc => acc
  | y, row :: rest, acc =>
    if h : y < 32 then drawRows x0 (y + 1) rest (drawRowFrom x0 ⟨y, h⟩ row 8 acc) else acc

/-- `DrawSprite(vx, vy, rows)`: the screen afterwards and the collision bit (R181). -/
def drawSprite (vx vy : Byte) (rows : List Byte) (p : Screen) : Screen × Bool :=
  drawRows (vx.toNat % 64) (vy.toNat % 32) rows (p, false)

/-- `CLS` (R180). -/
def execCls (s : State) : Outcome := complete (fun t => (t.setScreen Screen.clear).setDraw true) s

/-- The effect of DRW once its span is in bounds: `n` bytes at `I` are drawn at `(V[x], V[y])`, VF takes
the collision bit, `draw` is set (R182, D14, D28). -/
def drawEffect (x y : Reg) (n : Nibble) (t : State) : State :=
  let drawn := drawSprite (t.reg x) (t.reg y) (t.mem.readRange t.dataAddr n.toNat) t.screen
  ((t.setScreen drawn.1).setReg vf (flagByte drawn.2)).setDraw true

/-- `DRW Vx, Vy, n` (R182). -/
def execDrw (x y : Reg) (n : Nibble) (s : State) : Outcome := accessAtI n.toNat (drawEffect x y n) s

end Sys2Proof.Machine
end

