-- ==== Sys2Proof/Machine/IndexMemory.lean ====
section
/-!
DEFINITION. The index register and the memory transfers (44_index_memory.md R150 to R156). `I` is never
changed by a transfer (D6).
-/

namespace Sys2Proof.Machine

/-- `LD I, nnn` (R150). -/
def execLdI (nnn : Addr12) (s : State) : Outcome := complete (fun t => t.setI (addrOperand nnn)) s

/-- `ADD I, Vx`, modulo `MEM_SIZE`, VF untouched (R151, D7). -/
def execAddI (x : Reg) (s : State) : Outcome :=
  complete (fun t => t.setI (indexSum t.i (t.reg x))) s

/-- `LD F, Vx`: the glyph of the digit `V[x]`, `OPERAND_RANGE` when it is no digit (R152, D10). -/
def execLdF (x : Reg) (s : State) : Outcome :=
  match sixteenth (s.reg x) with
  | some d => complete (fun t => t.setI (glyphAddr d)) s
  | none => raiseFault .operandRange s.pc s

/-- `LD B, Vx`: the three decimal digits to `M[I..I+2]` (R153). -/
def execLdB (x : Reg) (s : State) : Outcome :=
  accessAtI 3 (fun t => t.setMem (t.mem.writeRange t.dataAddr (bcdDigits (t.reg x)))) s

/-- `LD [I], Vx`: `M[I..I+x] <- V[0..x]` (R154). -/
def execStoreRegs (x : Reg) (s : State) : Outcome :=
  accessAtI (regCount x) (fun t => t.setMem (t.mem.writeRange t.dataAddr (t.regsUpTo x))) s

/-- `LD Vx, [I]`: `V[0..x] <- M[I..I+x]` (R155). -/
def execLoadRegs (x : Reg) (s : State) : Outcome :=
  accessAtI (regCount x) (fun t => t.setV (t.regsFromMem x)) s

end Sys2Proof.Machine
end

