-- ==== Sys2Proof/Machine/Skips.lean ====
section
/-!
DEFINITION. The conditional skips (42_skips.md R120 to R126).
-/

namespace Sys2Proof.Machine

/-- `Skip(c)`: add 2 to `pc` when the condition holds (R120). -/
def State.skipIf (s : State) (c : Bool) : State := if c then s.setPc (s.pc + 2) else s

/-- A skip on the key that `V[x]` names, `OPERAND_RANGE` when it names none (R125, R126, D9). -/
def skipOnKey (x : Reg) (pressed : Bool) (s : State) : Outcome :=
  match sixteenth (s.reg x) with
  | some k => complete (fun t => t.skipIf (t.key k == pressed)) s
  | none => raiseFault .operandRange s.pc s

/-- `SE Vx, kk` (R121). -/
def execSeImm (x : Reg) (kk : Byte) (s : State) : Outcome :=
  complete (fun t => t.skipIf (t.reg x == kk)) s

/-- `SNE Vx, kk` (R122). -/
def execSneImm (x : Reg) (kk : Byte) (s : State) : Outcome :=
  complete (fun t => t.skipIf (t.reg x != kk)) s

/-- `SE Vx, Vy` (R123). -/
def execSeReg (x y : Reg) (s : State) : Outcome :=
  complete (fun t => t.skipIf (t.reg x == t.reg y)) s

/-- `SNE Vx, Vy` (R124). -/
def execSneReg (x y : Reg) (s : State) : Outcome :=
  complete (fun t => t.skipIf (t.reg x != t.reg y)) s

/-- `SKP Vx` (R125). -/
def execSkp (x : Reg) (s : State) : Outcome := skipOnKey x true s

/-- `SKNP Vx` (R126). -/
def execSknp (x : Reg) (s : State) : Outcome := skipOnKey x false s

end Sys2Proof.Machine
end

