-- ==== Sys2Proof/Machine/TimersKeys.lean ====
section
/-!
DEFINITION. The timer instructions and the key wait (45_timers_keys.md R160 to R163). The timebase's
ticks and the key events are no instructions; they stand in Machine/Agents.lean.
-/

namespace Sys2Proof.Machine

/-- `LD Vx, DT` (R160). -/
def execLdVxDt (x : Reg) (s : State) : Outcome := complete (fun t => t.setReg x t.dt) s

/-- `LD Vx, K`: enter the key wait; `V[x]` is written when a key press ends it (R163, R167). -/
def execLdVxK (x : Reg) (s : State) : Outcome := complete (fun t => t.setRun (.awaitingKey x)) s

/-- `LD DT, Vx` (R161). -/
def execLdDtVx (x : Reg) (s : State) : Outcome := complete (fun t => t.setDt (t.reg x)) s

/-- `LD ST, Vx`; no event is sent (R162). -/
def execLdStVx (x : Reg) (s : State) : Outcome := complete (fun t => t.setSt (t.reg x)) s

end Sys2Proof.Machine
end

