-- ==== Sys2Proof/Machine/Cycle.lean ====
section
/-!
DEFINITION. The core's cycle step (40_cycle.md R90 to R96): fetch, decode, execute in `Running`, nothing
in `AwaitingKey`, no step in `Faulted`.
-/

namespace Sys2Proof.Machine

/-- The word at `pc`, high byte at the lower address, whatever the alignment; none when its two bytes are
not both inside memory (R90, R93, 20_memory.md R52 to R54). -/
def State.fetch (s : State) : Option Word :=
  if spanInBounds s.pc 2 then some (wordOfBytes (s.mem.read s.pc.toNat) (s.mem.read (s.pc.toNat + 1)))
  else none

/-- `Unknown(w)`: a no-op with a diagnostic (R94). -/
def execUnknown (w : Word) (s : State) : Outcome := complete (fun t => t.emit (.diagnostic s.pc w)) s

/-- Execute what a word decodes to (R90). -/
def execDecoded (d : Decoded) (s : State) : Outcome :=
  match d with
  | .instr i => exec i s
  | .unknown w => execUnknown w s

/-- One cycle step in `Running` (R90): the fetch check comes first (R198). -/
def runningCycle (s : State) : Outcome :=
  match s.fetch with
  | some w => execDecoded (decode w) s
  | none => raiseFault .fetchOob s.pc s

/-- The core's cycle step (R90, R91). Taking one in `Running` ends the time in which `load` is allowed
(R97, log 9). -/
def cycle (s : State) : Outcome :=
  match s.run with
  | .running => runningCycle s.closeLoad
  | .awaitingKey _ => .next (s.setDraw false)
  | .faulted k a => .fault (.stopped k a)

/-- Where the next instruction is fetched: `pc`, or the entry point when `pc` leaves no room for a word. -/
def State.fetchAddr (s : State) : Word := if spanInBounds s.pc 2 then s.pc else 0x200

/-- The state with a word placed where the very next step fetches and runs it (log 12): the core running,
no other agent's action before it, and the word's two bytes at `pc`. -/
def State.placeWord (s : State) (w : Word) : State :=
  (((s.setRun .running).setSchedule []).setPc s.fetchAddr).setMem
    (s.mem.writeRange s.fetchAddr.toNat [hiByte w, loByte w])

end Sys2Proof.Machine
end

