-- ==== Sys2Proof/Machine/Agents.lean ====
section
/-!
DEFINITION. The steps of the other agents: the host's reset, program load and key events, the timebase's
ticks (40_cycle.md R97, R98; 45_timers_keys.md R164 to R167; 70_reset_and_hazards.md R210 to R213). A step
that R97's column "allowed when" does not allow is refused (log 19).
-/

namespace Sys2Proof.Machine

/-- An action of an agent other than the core: never while the core is faulted (R97, R200). -/
def whileLive (f : State → Outcome) (s : State) : Outcome :=
  if s.live then f s else .refused .actionWhileFaulted

/-- Every piece of the spec's state at its reset value (R40, R210). The model's own fields go on: the
draws already taken are not drawn again, the events stay sent, the schedule continues (log 16). -/
def State.resetBlock (s : State) : State :=
  { State.reset with draws := s.draws, events := s.events, schedule := s.schedule }

/-- `reset`: allowed in `AwaitingKey` too, where it ends the wait (R210, R211). -/
def hostReset (s : State) : Outcome := whileLive (fun t => .next t.resetBlock) s

/-- The ROM image fits: `0x200 + len <= MEM_SIZE` (R212). -/
abbrev romFits (rom : List Byte) : Prop := Config.programBase + rom.length ≤ Config.memSize

/-- `load(rom)`: the image verbatim at 0x200, refused whole when it is too long (R212, D21). -/
def hostLoad (rom : List Byte) (s : State) : Outcome :=
  whileLive (fun t =>
    if t.loadOpen then
      if romFits rom then .next (t.setMem (t.mem.writeRange Config.programBase rom))
      else .refused .loadError
    else .refused .loadAfterFirstStep) s

/-- The end of a key wait: `V[r] <- k`, `run <- Running` (R167). -/
def State.resolveWait (s : State) (k : KeyIndex) : State :=
  match s.run with
  | .running => s
  | .awaitingKey r => (s.setReg r (keyByte k)).setRun .running
  | .faulted _ _ => s

/-- `key_down(k)`: the key is pressed, the latch takes it, and a pending key wait ends (R166, R167). -/
def hostKeyDown (k : KeyIndex) (s : State) : Outcome :=
  whileLive (fun t => .next (((t.setKey k true).setLastKey (some k)).resolveWait k)) s

/-- `key_up(k)`: the key is released, the latch is not touched (R166). -/
def hostKeyUp (k : KeyIndex) (s : State) : Outcome := whileLive (fun t => .next (t.setKey k false)) s

/-- `tick_dt`: allowed while `DT` is positive (R164). -/
def tickDt (s : State) : Outcome :=
  whileLive (fun t => if t.dt = 0 then .refused .tickAtZero else .next (t.setDt (t.dt - 1))) s

/-- The events of a sound-timer tick: `Beep` exactly on the tick from 1 to 0 (R164, R165). -/
def State.beepIfLast (s : State) : State := if s.st = 1 then s.emit .beep else s

/-- `tick_st`: allowed while `ST` is positive (R164, R165). -/
def tickSt (s : State) : Outcome :=
  whileLive (fun t =>
    if t.st = 0 then .refused .tickAtZero else .next (t.beepIfLast.setSt (t.st - 1))) s

/-- One step of one agent (R11, R97). -/
def act (a : Action) (s : State) : Outcome :=
  match a with
  | .cycle => cycle s
  | .reset => hostReset s
  | .load rom => hostLoad rom s
  | .keyDown k => hostKeyDown k s
  | .keyUp k => hostKeyUp k s
  | .tickDt => tickDt s
  | .tickSt => tickSt s

/-- The next step of the block: the action the schedule names next, and a core step when it names none
(R98, log 7). -/
def nextStep (s : State) : Outcome :=
  match s.schedule with
  | [] => cycle s
  | a :: rest => act a (s.setSchedule rest)

/-- A launch: `reset`, then `load(rom)` (R213). -/
def launch (rom : List Byte) : Outcome := hostLoad rom State.reset

end Sys2Proof.Machine
end

