-- ==== Sys2Proof/Machine/Step.lean ====
section
/-!
DEFINITION. `step`, the one transition function of the block, and the host's way to place a word where
step fetches next. Both only call definitions that a repair may mend.
-/

namespace Sys2Proof.Machine

/-- One step of the block (40_cycle.md R90, R91, R97, R98). -/
def step (s : State) : Host.Outcome State Fault Refusal := nextStep s

/-- The state in which the very next step fetches and runs the word `w` (log 12). -/
def State.withFetchWord (s : State) (nbits w : Nat) : State := s.placeWord (tableWord nbits w)

end Sys2Proof.Machine
end

