-- ==== Sys2Proof/Safety.lean ====
section
/-!
DEFINITION. The terms in which claims are made: the pieces of state a frame can name, what a step changes,
when a fault is due (60_exceptions.md R191), the invariant of the block (10_state.md R23 to R26), and the
normal end of a run (40_cycle.md R99).
-/

namespace Sys2Proof.Machine

/-! ## Frames -/

/-- A piece of state, as small as a frame names it. -/
inductive Part where
  | reg (x : Reg)
  | i
  | pc
  | sp
  | stack (k : Fin 16)
  | dt
  | st
  | run
  | px (x : Fin 64) (y : Fin 32)
  | key (k : KeyIndex)
  | lastKey
  | byte (a : Nat)
  | draw
  | draws
  | events
  | schedule
  | loadOpen
  deriving DecidableEq, Repr

/-- The piece has the same value in both states; a byte of memory is compared by reading it. -/
def Part.same : Part → State → State → Prop
  | .reg x, s, t => t.reg x = s.reg x
  | .i, s, t => t.i = s.i
  | .pc, s, t => t.pc = s.pc
  | .sp, s, t => t.sp = s.sp
  | .stack k, s, t => t.stackAt k = s.stackAt k
  | .dt, s, t => t.dt = s.dt
  | .st, s, t => t.st = s.st
  | .run, s, t => t.run = s.run
  | .px x y, s, t => t.screen.px x y = s.screen.px x y
  | .key k, s, t => t.key k = s.key k
  | .lastKey, s, t => t.lastKey = s.lastKey
  | .byte a, s, t => t.mem.read a = s.mem.read a
  | .draw, s, t => t.draw = s.draw
  | .draws, s, t => t.draws = s.draws
  | .events, s, t => t.events = s.events
  | .schedule, s, t => t.schedule = s.schedule
  | .loadOpen, s, t => t.loadOpen = s.loadOpen

/-- From `s` to `t` nothing changes but the pieces that `P` names. -/
def changesOnly (P : Part → Prop) (s t : State) : Prop := ∀ p, ¬ P p → p.same s t

/-- From `s` to `t` nothing changes but the pieces in a list. -/
def changesOnlyIn (l : List Part) (s t : State) : Prop := changesOnly (fun p => p ∈ l) s t

/-- The instruction raises the fault: nothing changes but `run` and the events sent (R190). -/
def faults (i : Instr) (s : State) (k : FaultKind) (addr : Word) : Prop :=
  ∃ t, exec i s = .next t ∧ t.run = .faulted k addr ∧ t.events = s.events ++ [.fatal k addr] ∧
    changesOnlyIn [.run, .events] s t

/-- The opcode's row of R74: every word that mask and match select decodes to it, with its operand fields
(R70, R74). -/
def rowDecodes (mask pattern : Word) (opcode : Word → Instr) : Prop :=
  ∀ w : Word, w &&& mask = pattern → decode w = .instr (opcode w)

/-- The instruction completes: `exec` answers a next state in which `pc` is `target` modulo `MEM_SIZE`
(R96), `draw` is as given (R34), nothing changed but `pc`, `draw` and the pieces `P` names, and `post`
holds. -/
def completes (i : Instr) (s : State) (target : Nat) (display : Bool) (P : Part → Prop)
    (post : State → Prop) : Prop :=
  ∃ t, exec i s = .next t ∧ t.pc.toNat = target % 4096 ∧ t.draw = display ∧
    changesOnly (fun p => p = .pc ∨ p = .draw ∨ P p) s t ∧ post t

/-- The address of the instruction after the one at `pc` (R90). -/
def State.nextAddr (s : State) : Nat := s.pc.toNat + 2

/-- The piece is one of the `n` bytes of memory at `I` (R156). -/
def bytesAtI (s : State) (n : Nat) (p : Part) : Prop :=
  ∃ a, p = .byte a ∧ s.dataAddr ≤ a ∧ a < s.dataAddr + n

/-! ## Which registers an instruction writes -/

/-- The instruction writes register `r` as its destination when it executes (R22). FX0A does so only when
its wait ends. -/
def hasDest (i : Instr) (r : Reg) : Prop :=
  match i with
  | .sys _ => False
  | .cls => False
  | .ret => False
  | .jp _ => False
  | .call _ => False
  | .seImm _ _ => False
  | .sneImm _ _ => False
  | .seReg _ _ => False
  | .ldImm x _ => r = x
  | .addImm x _ => r = x
  | .ldReg x _ => r = x
  | .orReg x _ => r = x
  | .andReg x _ => r = x
  | .xorReg x _ => r = x
  | .addReg x _ => r = x
  | .subReg x _ => r = x
  | .shr x _ => r = x
  | .subnReg x _ => r = x
  | .shl x _ => r = x
  | .sneReg _ _ => False
  | .ldI _ => False
  | .jpV0 _ => False
  | .rnd x _ => r = x
  | .drw _ _ _ => False
  | .skp _ => False
  | .sknp _ => False
  | .ldVxDt x => r = x
  | .ldVxK _ => False
  | .ldDtVx _ => False
  | .ldStVx _ => False
  | .addI _ => False
  | .ldF _ => False
  | .ldB _ => False
  | .storeRegs _ => False
  | .loadRegs x => r.val ≤ x.val

/-- The instruction writes VF as a flag (R21). -/
def writesFlag : Instr → Bool
  | .sys _ => false
  | .cls => false
  | .ret => false
  | .jp _ => false
  | .call _ => false
  | .seImm _ _ => false
  | .sneImm _ _ => false
  | .seReg _ _ => false
  | .ldImm _ _ => false
  | .addImm _ _ => false
  | .ldReg _ _ => false
  | .orReg _ _ => false
  | .andReg _ _ => false
  | .xorReg _ _ => false
  | .addReg _ _ => true
  | .subReg _ _ => true
  | .shr _ _ => true
  | .subnReg _ _ => true
  | .shl _ _ => true
  | .sneReg _ _ => false
  | .ldI _ => false
  | .jpV0 _ => false
  | .rnd _ _ => false
  | .drw _ _ _ => true
  | .skp _ => false
  | .sknp _ => false
  | .ldVxDt _ => false
  | .ldVxK _ => false
  | .ldDtVx _ => false
  | .ldStVx _ => false
  | .addI _ => false
  | .ldF _ => false
  | .ldB _ => false
  | .storeRegs _ => false
  | .loadRegs _ => false

/-! ## When a fault is due -/

/-- The condition under which an instruction raises a fault, and its record (R191). -/
def faultDueAt (i : Instr) (s : State) (k : FaultKind) (a : Word) : Prop :=
  match i with
  | .ret => k = .stackUnderflow ∧ a = s.pc ∧ s.sp.val = 0
  | .call _ => k = .stackOverflow ∧ a = s.pc ∧ s.sp.val = 16
  | .skp x => k = .operandRange ∧ a = s.pc ∧ (s.reg x).toNat > 15
  | .sknp x => k = .operandRange ∧ a = s.pc ∧ (s.reg x).toNat > 15
  | .ldF x => k = .operandRange ∧ a = s.pc ∧ (s.reg x).toNat > 15
  | .drw _ _ n => k = .memOob ∧ a = s.i ∧ s.i.toNat + n.toNat > 4096
  | .ldB _ => k = .memOob ∧ a = s.i ∧ s.i.toNat + 3 > 4096
  | .storeRegs x => k = .memOob ∧ a = s.i ∧ s.i.toNat + x.val + 1 > 4096
  | .loadRegs x => k = .memOob ∧ a = s.i ∧ s.i.toNat + x.val + 1 > 4096
  | .sys _ => False
  | .cls => False
  | .jp _ => False
  | .seImm _ _ => False
  | .sneImm _ _ => False
  | .seReg _ _ => False
  | .ldImm _ _ => False
  | .addImm _ _ => False
  | .ldReg _ _ => False
  | .orReg _ _ => False
  | .andReg _ _ => False
  | .xorReg _ _ => False
  | .addReg _ _ => False
  | .subReg _ _ => False
  | .shr _ _ => False
  | .subnReg _ _ => False
  | .shl _ _ => False
  | .sneReg _ _ => False
  | .ldI _ => False
  | .jpV0 _ => False
  | .rnd _ _ => False
  | .ldVxDt _ => False
  | .ldVxK _ => False
  | .ldDtVx _ => False
  | .ldStVx _ => False
  | .addI _ => False

/-- The condition under which a cycle step of a running core raises a fault, and its record (R191, R192). -/
def faultDue (s : State) (k : FaultKind) (a : Word) : Prop :=
  if s.pc.toNat + 2 > 4096 then k = .fetchOob ∧ a = s.pc
  else ∃ i, decode (wordOfBytes (s.mem.read s.pc.toNat) (s.mem.read (s.pc.toNat + 1))) = .instr i ∧
    faultDueAt i s k a

/-! ## Sprites -/

/-- The sprite has a set bit on pixel `(x, y)` of the screen: the anchor is taken modulo the screen's size,
row `r` of the sprite is row `y0 + r`, bit 7 of a row is column `x0`, and nothing wraps (R181). -/
def spriteBit (vx vy : Byte) (rows : List Byte) (x : Fin 64) (y : Fin 32) : Bool :=
  decide (vx.toNat % 64 ≤ x.val ∧ x.val < vx.toNat % 64 + 8 ∧ vy.toNat % 32 ≤ y.val) &&
    ((rows[y.val - vy.toNat % 32]?).getD 0).getLsbD (7 - (x.val - vx.toNat % 64))

/-! ## The invariant -/

/-- A fault's record names what R191 says: `I` for `MEM_OOB` and `pc`, which kept `ia`, for every other
kind; and its `Fatal` was the last event sent (R190, R191, R200). -/
def State.faultRecorded (s : State) : Prop :=
  ∀ k a, s.run = .faulted k a →
    a = (if k = .memOob then s.i else s.pc) ∧ s.events.getLast? = some (.fatal k a)

/-- What holds of the block between any two steps: memory in its canonical form, `pc` and `I` inside
memory (R23, R24), every stack entry at most 0x1000 (R25, R112), a fault's record right, and `load`
allowed only while running (R97). -/
structure State.Inv (s : State) : Prop where
  memWf : s.mem.wf = true
  pcInside : s.pc.toNat < 4096
  iInside : s.i.toNat < 4096
  stackInside : ∀ k, (s.stackAt k).toNat ≤ 4096
  recorded : s.faultRecorded
  loadRunning : s.loadOpen = true → s.run = .running

/-! ## The end of a run -/

/-- The run has ended normally at `h` (R99): the core is running at `h`, which holds a jump to itself. -/
def State.haltedAt (s : State) (h : Addr12) : Prop :=
  s.run = .running ∧ s.pc = addrOperand h ∧ h.toNat + 2 ≤ 4096 ∧
    decode (wordOfBytes (s.mem.read h.toNat) (s.mem.read (h.toNat + 1))) = .instr (.jp h)

/-- The run has ended in failure (R99). -/
def State.failed (s : State) : Prop := s.live = false

end Sys2Proof.Machine
end

