-- ==== Sys2Proof/Certificates/Slice0/Obligations.lean ====
section
/-!
DEFINITION. The statements for the provers, one `def Obligations.<Name> : Prop` each. Each docstring names
the rule it formalises, or the sections it rests on, and the assumption-log entries it depends on.
-/

open Sys2Proof Sys2Proof.Machine

/-! ## Encoding -/

/-- Words written out from the patterns of R74 and the examples of 95_test_vectors.md E2 and V-DEC decode
to what the spec says they stand for. -/
def Obligations.WordsOfTheSpecDecode : Prop :=
  decode 0x00E0 = .instr .cls ∧ decode 0x1ABC = .instr (.jp 0xABC) ∧
  decode 0x6A07 = .instr (.ldImm 0xA 0x07) ∧ decode 0x00EE = .instr .ret ∧
  decode 0x00E1 = .instr (.sys 0x0E1) ∧ decode 0x5120 = .instr (.seReg 1 2) ∧
  decode 0x8AB6 = .instr (.shr 0xA 0xB) ∧ decode 0xB123 = .instr (.jpV0 0x123) ∧
  decode 0xD125 = .instr (.drw 1 2 5) ∧ decode 0xE59E = .instr (.skp 5) ∧
  decode 0xF155 = .instr (.storeRegs 1) ∧ decode 0xF000 = .unknown 0xF000

/-- Decoding the word of a well-formed instruction gives it back, with every operand (rests on
30_encoding.md R74, R75). -/
def Obligations.DecodeOfEncodeIsIdentity : Prop :=
  ∀ i : Instr, i.wellFormed = true → decode (encode i) = .instr i

/-- A word that decodes to an instruction is that instruction's word, and the instruction is well-formed:
no bit of the word is dropped (rests on 30_encoding.md R70, R74, R75). -/
def Obligations.EncodeOfDecodeIsTheWord : Prop :=
  ∀ (w : Word) (i : Instr), decode w = .instr i → encode i = w ∧ i.wellFormed = true

/-- The opcode map, read by mask and match: each of the 34 rows but SYS selects its words, SYS takes
the words of its own match that no other row selects, and every other word is `Unknown`, with the raw
word (30_encoding.md R74). -/
def Obligations.OpcodeMapSelectsByMaskAndMatch : Prop :=
  opcodeRows.length = 34 ∧
  (∀ r ∈ opcodeRows, ∀ w : Word, r.selects w → decode w = .instr (r.instr w)) ∧
  (∀ w : Word, (∀ r ∈ opcodeRows, ¬ r.selects w) →
    (∀ r ∈ rowSys, r.selects w → decode w = .instr (r.instr w)) ∧
    ((∀ r ∈ rowSys, ¬ r.selects w) → decode w = .unknown w))

/-- No two rows of the opcode map, SYS apart, match the same word (rests on 30_encoding.md R75, which
marks this sentence as derived from the masks and matches of R74). -/
def Obligations.OpcodeRowsDoNotOverlap : Prop :=
  ∀ r ∈ opcodeRows, ∀ r' ∈ opcodeRows, ∀ w : Word, r.selects w → r'.selects w →
    r.1 = r'.1 ∧ r.2.1 = r'.2.1

/-- The unknown words are those of R76's table, family by family, and carry the raw word (rests on
30_encoding.md R75, R76; R76's counts are not stated). -/
def Obligations.UnknownWordsByFamily : Prop :=
  ∀ w u : Word, decode w = .unknown u ↔ u = w ∧
    ((opField w = 0x5 ∧ nField w ≠ 0) ∨
     (opField w = 0x8 ∧ nField w ∈ [0x8, 0x9, 0xA, 0xB, 0xC, 0xD, 0xF]) ∨
     (opField w = 0x9 ∧ nField w ≠ 0) ∨
     (opField w = 0xE ∧ kkField w ∉ [0x9E, 0xA1]) ∨
     (opField w = 0xF ∧ kkField w ∉ [0x07, 0x0A, 0x15, 0x18, 0x1E, 0x29, 0x33, 0x55, 0x65]))

/-! ## The cycle -/

/-- `step` is the action the schedule names next, on the state without it, and a core cycle when the
schedule is empty (rests on 40_cycle.md R97, R98; the schedule is the model's, log 7). -/
def Obligations.StepIsNextScheduledAction : Prop :=
  (∀ s : State, s.schedule = [] → step s = cycle s) ∧
  (∀ (s : State) (a : Action) (rest : List Action), s.schedule = a :: rest →
    step s = act a (s.setSchedule rest))

/-- When the core is running and its turn has come, and the two bytes at `pc` decode to an instruction,
`step` is `exec` of it: on the state whose schedule has lost that turn and in which `load` is no longer
allowed; `exec` itself moves `pc` past the word (rests on 40_cycle.md R90; logs 7 and 9). -/
def Obligations.StepRunsTheDecodedInstruction : Prop :=
  ∀ (s : State) (i : Instr), s.run = .running → s.schedule.headD .cycle = .cycle →
    s.pc.toNat + 2 ≤ 4096 →
    decode (wordOfBytes (s.mem.read s.pc.toNat) (s.mem.read (s.pc.toNat + 1))) = .instr i →
    step s = exec i (s.setSchedule s.schedule.tail).closeLoad

/-- A word placed with `withFetchWord`, from any state, is what the very next step decodes and runs, on
the state with the word placed and `load` no longer allowed (the model's way to place a word, log 12;
rests on 40_cycle.md R90). -/
def Obligations.PlacedWordIsRunNext : Prop :=
  ∀ (s : State) (w : Word) (i : Instr), decode w = .instr i →
    step (s.withFetchWord 16 w.toNat) = exec i (s.withFetchWord 16 w.toNat).closeLoad

/-- A running core that fetches an unknown word sends `Diagnostic` with its address and the word, moves
`pc` on by 2, changes nothing else and raises no fault (60_exceptions.md R197, 40_cycle.md R94; that the
first core step closes `load` is the model's, log 9). -/
def Obligations.UnknownWordIsTolerated : Prop :=
  ∀ (s : State) (u : Word), s.run = .running → s.pc.toNat + 2 ≤ 4096 →
    decode (wordOfBytes (s.mem.read s.pc.toNat) (s.mem.read (s.pc.toNat + 1))) = .unknown u →
    ∃ t, cycle s = .next t ∧ t.pc.toNat = (s.pc.toNat + 2) % 4096 ∧ t.draw = false ∧
      t.events = s.events ++
        [.diagnostic s.pc (wordOfBytes (s.mem.read s.pc.toNat) (s.mem.read (s.pc.toNat + 1)))] ∧
      changesOnlyIn [.pc, .draw, .events, .loadOpen] s t

/-- A fetch whose two bytes are not both inside memory raises `FETCH_OOB` with the fetch address, and no
other core step raises it (60_exceptions.md R192). -/
def Obligations.FetchPastMemoryFaults : Prop :=
  (∀ s : State, s.run = .running → s.pc.toNat + 2 > 4096 →
    ∃ t, cycle s = .next t ∧ t.run = .faulted .fetchOob s.pc ∧
      t.events = s.events ++ [.fatal .fetchOob s.pc] ∧
      changesOnlyIn [.run, .events, .loadOpen] s t) ∧
  (∀ (s t : State) (a : Word), s.run = .running → cycle s = .next t →
    t.run = .faulted .fetchOob a → s.pc.toNat + 2 > 4096)

/-- Outside `Running`: in `AwaitingKey` a core step changes nothing and returns `draw = 0`; in `Faulted`
the core has no step (rests on 40_cycle.md R91; that a step asked for there answers the fault `stopped` is
the model's form of "no step at all", log 6). -/
def Obligations.CoreStepOutsideRunning : Prop :=
  (∀ (s : State) (r : Reg), s.run = .awaitingKey r →
    ∃ t, cycle s = .next t ∧ t.draw = false ∧ changesOnlyIn [.draw] s t) ∧
  (∀ (s : State) (k : FaultKind) (a : Word), s.run = .faulted k a →
    cycle s = .fault (.stopped k a))

/-- The fetched word is big-endian, at any address, odd ones included (20_memory.md R52, R54). -/
def Obligations.FetchedWordIsBigEndian : Prop :=
  ∀ s : State, s.pc.toNat + 2 ≤ 4096 →
    ∃ w, s.fetch = some w ∧
      w.toNat = (s.mem.read s.pc.toNat).toNat * 256 + (s.mem.read (s.pc.toNat + 1)).toNat

/-- A store into the instruction stream is what the next fetch reads: after FX55 over the next word, the
fetched word is made of the two registers stored there (rests on 20_memory.md R63). -/
def Obligations.StoredWordIsFetchedNext : Prop :=
  ∀ (x k : Reg) (s t : State), exec (.storeRegs x) s = .next t → s.i.toNat + x.val + 1 ≤ 4096 →
    t.pc.toNat = s.dataAddr + k.val → k.val + 1 ≤ x.val →
    t.fetch = some (wordOfBytes (s.reg k) (s.reg (k + 1)))

/-! ## Faults -/

/-- Raising a fault is precise: a cycle step of a running core that ends in `Faulted` wrote nothing but
`run` and sent `Fatal` with the same record (rests on 60_exceptions.md R190; that `draw` too keeps its
value of before the step is the model's reading, log 5, and that the step closes `load` is the model's,
log 9). -/
def Obligations.FaultIsPrecise : Prop :=
  ∀ (s t : State) (k : FaultKind) (a : Word), s.run = .running → cycle s = .next t →
    t.run = .faulted k a →
    t = { s with run := .faulted k a, events := s.events ++ [.fatal k a], loadOpen := false }

/-- The table of faults: a cycle step of a running core always answers a next state, and that state is
`Faulted(kind, addr)` exactly when the table of R191 says so, `pc` then being the faulting instruction's
address; the kinds have codes 1 to 5 (60_exceptions.md R191). -/
def Obligations.FaultsAreThoseOfTheTable : Prop :=
  (∀ s : State, s.run = .running →
    ∃ t, cycle s = .next t ∧ (∀ k a, t.run = .faulted k a ↔ faultDue s k a) ∧
      ∀ k a, t.run = .faulted k a → t.pc = s.pc) ∧
  [FaultKind.fetchOob, .stackOverflow, .stackUnderflow, .memOob, .operandRange].map FaultKind.code =
    [1, 2, 3, 4, 5]

/-- `Faulted` has no exit: no agent's action answers a next state (rests on 60_exceptions.md R200 and
40_cycle.md R97; in what form the model rejects it is logs 6 and 19). -/
def Obligations.FaultedHasNoExit : Prop :=
  ∀ (s t : State) (k : FaultKind) (addr : Word) (a : Action), s.run = .faulted k addr →
    act a s ≠ .next t

/-- A cycle step sends at most one event, and never `Beep` (rests on 40_cycle.md R92). -/
def Obligations.CoreSendsNoBeep : Prop :=
  ∀ s t : State, cycle s = .next t →
    ∃ l, t.events = s.events ++ l ∧ l.length ≤ 1 ∧ Event.beep ∉ l

/-! ## Control transfer -/

/-- SYS is a no-op: only `pc` and `draw` change (40_cycle.md R95). -/
def Obligations.SysIsNoOp : Prop :=
  (∀ w : Word, w &&& 0xF000 = 0 → w ≠ 0x00E0 → w ≠ 0x00EE →
    decode w = .instr (.sys (nnnField w))) ∧
  ∀ (nnn : Addr12) (s : State),
    completes (.sys nnn) s s.nextAddr false (fun _ => False) (fun _ => True)

/-- RET pops the return address, which the wrap reduces, leaves every stack entry as it is, and raises
`STACK_UNDERFLOW` on an empty stack (41_control_flow.md R110, 60_exceptions.md R194). -/
def Obligations.RetPopsOrUnderflows : Prop :=
  decode 0x00EE = .instr .ret ∧
  (∀ (s : State) (k : Fin 16), s.sp.val = k.val + 1 →
    completes .ret s (s.stackAt k).toNat false (fun p => p = .sp) (fun t => t.sp.val = k.val)) ∧
  (∀ s : State, s.sp.val = 0 → faults .ret s .stackUnderflow s.pc)

/-- JP goes to `nnn`; JP V0 goes to `nnn + V0`, modulo 4096, whatever the `x` field holds
(41_control_flow.md R111, R113). -/
def Obligations.JumpsReachTheirTargets : Prop :=
  rowDecodes 0xF000 0x1000 (fun w => .jp (nnnField w)) ∧
  rowDecodes 0xF000 0xB000 (fun w => .jpV0 (nnnField w)) ∧
  ∀ (nnn : Addr12) (s : State),
    completes (.jp nnn) s nnn.toNat false (fun _ => False) (fun _ => True) ∧
    completes (.jpV0 nnn) s (nnn.toNat + (s.reg 0).toNat) false (fun _ => False) (fun _ => True)

/-- CALL pushes the address after it, not wrapped, and jumps; on a full stack it raises
`STACK_OVERFLOW` (41_control_flow.md R112, 60_exceptions.md R193). `pc` is below 0x1000 between steps
(R23), so `ia + 2` does not exceed 16 bits. -/
def Obligations.CallPushesOrOverflows : Prop :=
  rowDecodes 0xF000 0x2000 (fun w => .call (nnnField w)) ∧
  (∀ (nnn : Addr12) (s : State) (k : Fin 16), s.sp.val = k.val → s.pc.toNat < 4096 →
    completes (.call nnn) s nnn.toNat false (fun p => p = .sp ∨ p = .stack k)
      (fun t => t.sp.val = k.val + 1 ∧ (t.stackAt k).toNat = s.pc.toNat + 2)) ∧
  (∀ (nnn : Addr12) (s : State), s.sp.val = 16 → faults (.call nnn) s .stackOverflow s.pc)

/-- A RET right after a CALL comes back to the address after the CALL with the stack pointer restored and
every register, timer, pixel and byte of memory as before the CALL (rests on 41_control_flow.md R110,
R112, R114). -/
def Obligations.RetAfterCallReturns : Prop :=
  ∀ (nnn : Addr12) (s : State), s.sp.val < 16 → s.pc.toNat < 4096 →
    ∃ t u, exec (.call nnn) s = .next t ∧ exec .ret t = .next u ∧
      u.pc.toNat = (s.pc.toNat + 2) % 4096 ∧
      changesOnly (fun p => p = .pc ∨ p = .draw ∨ ∃ k, p = .stack k ∧ k.val = s.sp.val) s u

/-! ## Skips -/

/-- SE and SNE with an immediate: 4 bytes on when the condition holds, 2 otherwise, nothing else written
(42_skips.md R121, R122). -/
def Obligations.SkipsOnImmediate : Prop :=
  rowDecodes 0xF000 0x3000 (fun w => .seImm (xField w) (kkField w)) ∧
  rowDecodes 0xF000 0x4000 (fun w => .sneImm (xField w) (kkField w)) ∧
  ∀ (x : Reg) (kk : Byte) (s : State),
    completes (.seImm x kk) s (if s.reg x = kk then s.pc.toNat + 4 else s.pc.toNat + 2) false
      (fun _ => False) (fun _ => True) ∧
    completes (.sneImm x kk) s (if s.reg x = kk then s.pc.toNat + 2 else s.pc.toNat + 4) false
      (fun _ => False) (fun _ => True)

/-- SE and SNE on two registers (42_skips.md R123, R124). -/
def Obligations.SkipsOnRegisters : Prop :=
  rowDecodes 0xF00F 0x5000 (fun w => .seReg (xField w) (yField w)) ∧
  rowDecodes 0xF00F 0x9000 (fun w => .sneReg (xField w) (yField w)) ∧
  ∀ (x y : Reg) (s : State),
    completes (.seReg x y) s (if s.reg x = s.reg y then s.pc.toNat + 4 else s.pc.toNat + 2) false
      (fun _ => False) (fun _ => True) ∧
    completes (.sneReg x y) s (if s.reg x = s.reg y then s.pc.toNat + 2 else s.pc.toNat + 4) false
      (fun _ => False) (fun _ => True)

/-- SKP and SKNP skip on the state of the key `V[x]` names, and raise `OPERAND_RANGE` when `V[x]` is above
15 (42_skips.md R125, R126). -/
def Obligations.SkipsOnKey : Prop :=
  rowDecodes 0xF0FF 0xE09E (fun w => .skp (xField w)) ∧
  rowDecodes 0xF0FF 0xE0A1 (fun w => .sknp (xField w)) ∧
  (∀ (x : Reg) (k : KeyIndex) (s : State), (s.reg x).toNat = k.val →
    completes (.skp x) s (if s.key k = true then s.pc.toNat + 4 else s.pc.toNat + 2) false
      (fun _ => False) (fun _ => True) ∧
    completes (.sknp x) s (if s.key k = true then s.pc.toNat + 2 else s.pc.toNat + 4) false
      (fun _ => False) (fun _ => True)) ∧
  (∀ (x : Reg) (s : State), (s.reg x).toNat > 15 →
    faults (.skp x) s .operandRange s.pc ∧ faults (.sknp x) s .operandRange s.pc)

/-! ## Loads, arithmetic, logic, shifts, random -/

/-- The immediate load and the immediate add, modulo 256 and without a carry (43_register_alu.md R132,
R133). -/
def Obligations.ImmediateLoadAndAdd : Prop :=
  rowDecodes 0xF000 0x6000 (fun w => .ldImm (xField w) (kkField w)) ∧
  rowDecodes 0xF000 0x7000 (fun w => .addImm (xField w) (kkField w)) ∧
  ∀ (x : Reg) (kk : Byte) (s : State),
    completes (.ldImm x kk) s s.nextAddr false (fun p => p = .reg x) (fun t => t.reg x = kk) ∧
    completes (.addImm x kk) s s.nextAddr false (fun p => p = .reg x)
      (fun t => (t.reg x).toNat = ((s.reg x).toNat + kk.toNat) % 256)

/-- The register copy and the bitwise operations: only `V[x]` is written, VF included only when `x` is 15
(43_register_alu.md R134 to R137). -/
def Obligations.CopyAndLogic : Prop :=
  rowDecodes 0xF00F 0x8000 (fun w => .ldReg (xField w) (yField w)) ∧
  rowDecodes 0xF00F 0x8001 (fun w => .orReg (xField w) (yField w)) ∧
  rowDecodes 0xF00F 0x8002 (fun w => .andReg (xField w) (yField w)) ∧
  rowDecodes 0xF00F 0x8003 (fun w => .xorReg (xField w) (yField w)) ∧
  ∀ (x y : Reg) (s : State),
    completes (.ldReg x y) s s.nextAddr false (fun p => p = .reg x) (fun t => t.reg x = s.reg y) ∧
    completes (.orReg x y) s s.nextAddr false (fun p => p = .reg x)
      (fun t => t.reg x = s.reg x ||| s.reg y) ∧
    completes (.andReg x y) s s.nextAddr false (fun p => p = .reg x)
      (fun t => t.reg x = s.reg x &&& s.reg y) ∧
    completes (.xorReg x y) s s.nextAddr false (fun p => p = .reg x)
      (fun t => t.reg x = s.reg x ^^^ s.reg y)

/-- ADD on registers: VF is 1 exactly when the exact sum exceeds 255, and `V[x]`, when `x` is not 15, is
the sum modulo 256; both from the operands as they were before the step (43_register_alu.md R138). -/
def Obligations.AddSetsCarry : Prop :=
  rowDecodes 0xF00F 0x8004 (fun w => .addReg (xField w) (yField w)) ∧
  ∀ (x y : Reg) (s : State),
    completes (.addReg x y) s s.nextAddr false (fun p => p = .reg x ∨ p = .reg vf)
      (fun t => t.reg vf = (if (s.reg x).toNat + (s.reg y).toNat > 255 then 1 else 0) ∧
        (x ≠ vf → (t.reg x).toNat = ((s.reg x).toNat + (s.reg y).toNat) % 256))

/-- SUB and SUBN: VF is 1 exactly when no borrow occurs, and `V[x]`, when `x` is not 15, is the difference
modulo 256 (43_register_alu.md R139, R141). -/
def Obligations.SubtractSetsNoBorrow : Prop :=
  rowDecodes 0xF00F 0x8005 (fun w => .subReg (xField w) (yField w)) ∧
  rowDecodes 0xF00F 0x8007 (fun w => .subnReg (xField w) (yField w)) ∧
  ∀ (x y : Reg) (s : State),
    completes (.subReg x y) s s.nextAddr false (fun p => p = .reg x ∨ p = .reg vf)
      (fun t => t.reg vf = (if (s.reg x).toNat ≥ (s.reg y).toNat then 1 else 0) ∧
        (x ≠ vf → ((t.reg x).toNat : Int) = ((s.reg x).toNat - (s.reg y).toNat : Int) % 256)) ∧
    completes (.subnReg x y) s s.nextAddr false (fun p => p = .reg x ∨ p = .reg vf)
      (fun t => t.reg vf = (if (s.reg y).toNat ≥ (s.reg x).toNat then 1 else 0) ∧
        (x ≠ vf → ((t.reg x).toNat : Int) = ((s.reg y).toNat - (s.reg x).toNat : Int) % 256))

/-- SHR and SHL: VF is the bit shifted out, and `V[x]`, when `x` is not 15, the shifted value; the `y`
field has no effect (43_register_alu.md R140, R142). -/
def Obligations.ShiftsByOneBit : Prop :=
  rowDecodes 0xF00F 0x8006 (fun w => .shr (xField w) (yField w)) ∧
  rowDecodes 0xF00F 0x800E (fun w => .shl (xField w) (yField w)) ∧
  ∀ (x y : Reg) (s : State),
    completes (.shr x y) s s.nextAddr false (fun p => p = .reg x ∨ p = .reg vf)
      (fun t => (t.reg vf).toNat = (s.reg x).toNat % 2 ∧
        (x ≠ vf → (t.reg x).toNat = (s.reg x).toNat / 2)) ∧
    completes (.shl x y) s s.nextAddr false (fun p => p = .reg x ∨ p = .reg vf)
      (fun t => (t.reg vf).toNat = (s.reg x).toNat / 128 ∧
        (x ≠ vf → (t.reg x).toNat = (s.reg x).toNat * 2 % 256))

/-- RND loads the drawn byte masked by `kk`, and moves on to the next draw. The drawn byte is a free value:
the statement holds whatever it is (rests on 43_register_alu.md R143; log 1). -/
def Obligations.RandomByteIsMasked : Prop :=
  rowDecodes 0xF000 0xC000 (fun w => .rnd (xField w) (kkField w)) ∧
  ∀ (x : Reg) (kk : Byte) (s : State),
    completes (.rnd x kk) s s.nextAddr false (fun p => p = .reg x ∨ p = .draws)
      (fun t => t.reg x = Config.rnd s.draws &&& kk ∧ t.draws = s.draws + 1)

/-! ## The index register and memory -/

/-- LD I loads `nnn`; ADD I adds `V[x]` modulo 4096 and leaves VF alone (44_index_memory.md R150, R151). -/
def Obligations.IndexLoadAndAdd : Prop :=
  rowDecodes 0xF000 0xA000 (fun w => .ldI (nnnField w)) ∧
  rowDecodes 0xF0FF 0xF01E (fun w => .addI (xField w)) ∧
  (∀ (nnn : Addr12) (s : State),
    completes (.ldI nnn) s s.nextAddr false (fun p => p = .i) (fun t => t.i.toNat = nnn.toNat)) ∧
  (∀ (x : Reg) (s : State),
    completes (.addI x) s s.nextAddr false (fun p => p = .i)
      (fun t => t.i.toNat = (s.i.toNat + (s.reg x).toNat) % 4096))

/-- LD F points `I` at the glyph of the digit `V[x]`, and raises `OPERAND_RANGE` when `V[x]` is above 15
(44_index_memory.md R152; `FONT_BASE` is open, log 2). -/
def Obligations.GlyphAddressOrRangeFault : Prop :=
  rowDecodes 0xF0FF 0xF029 (fun w => .ldF (xField w)) ∧
  (∀ (x : Reg) (s : State), (s.reg x).toNat ≤ 15 →
    completes (.ldF x) s s.nextAddr false (fun p => p = .i)
      (fun t => t.i.toNat = fontBase + 5 * (s.reg x).toNat)) ∧
  (∀ (x : Reg) (s : State), (s.reg x).toNat > 15 → faults (.ldF x) s .operandRange s.pc)

/-- LD B writes the three decimal digits of `V[x]` at `I`, hundreds first, and no other byte; it raises
`MEM_OOB` when the three bytes are not all inside memory (44_index_memory.md R153). -/
def Obligations.BcdDigitsAreStored : Prop :=
  rowDecodes 0xF0FF 0xF033 (fun w => .ldB (xField w)) ∧
  (∀ (x : Reg) (s : State), s.i.toNat + 3 ≤ 4096 →
    completes (.ldB x) s s.nextAddr false (bytesAtI s 3)
      (fun t => (t.mem.read s.dataAddr).toNat = (s.reg x).toNat / 100 ∧
        (t.mem.read (s.dataAddr + 1)).toNat = (s.reg x).toNat / 10 % 10 ∧
        (t.mem.read (s.dataAddr + 2)).toNat = (s.reg x).toNat % 10)) ∧
  (∀ (x : Reg) (s : State), s.i.toNat + 3 > 4096 → faults (.ldB x) s .memOob s.i)

/-- LD [I] stores `V0` to `Vx` at `I` in ascending order and no other byte, and leaves `I` alone; it raises
`MEM_OOB` when the span leaves memory (44_index_memory.md R154). -/
def Obligations.RegistersAreStored : Prop :=
  rowDecodes 0xF0FF 0xF055 (fun w => .storeRegs (xField w)) ∧
  (∀ (x : Reg) (s : State), s.i.toNat + x.val + 1 ≤ 4096 →
    completes (.storeRegs x) s s.nextAddr false (bytesAtI s (x.val + 1))
      (fun t => ∀ r : Reg, r.val ≤ x.val → t.mem.read (s.dataAddr + r.val) = s.reg r)) ∧
  (∀ (x : Reg) (s : State), s.i.toNat + x.val + 1 > 4096 → faults (.storeRegs x) s .memOob s.i)

/-- LD Vx, [I] loads `V0` to `Vx` from `I` in ascending order, leaves the registers above `x` and `I` alone,
and raises `MEM_OOB` when the span leaves memory (44_index_memory.md R155). -/
def Obligations.RegistersAreLoaded : Prop :=
  rowDecodes 0xF0FF 0xF065 (fun w => .loadRegs (xField w)) ∧
  (∀ (x : Reg) (s : State), s.i.toNat + x.val + 1 ≤ 4096 →
    completes (.loadRegs x) s s.nextAddr false (fun p => ∃ r : Reg, p = .reg r ∧ r.val ≤ x.val)
      (fun t => ∀ r : Reg, r.val ≤ x.val → t.reg r = s.mem.read (s.dataAddr + r.val))) ∧
  (∀ (x : Reg) (s : State), s.i.toNat + x.val + 1 > 4096 → faults (.loadRegs x) s .memOob s.i)

/-- Storing registers and loading them back at once restores every register and leaves memory as the
store left it (rests on 44_index_memory.md R154, R155). -/
def Obligations.LoadAfterStoreRestores : Prop :=
  ∀ (x : Reg) (s : State), s.i.toNat + x.val + 1 ≤ 4096 →
    ∃ t u, exec (.storeRegs x) s = .next t ∧ exec (.loadRegs x) t = .next u ∧
      changesOnly (fun p => p = .pc ∨ p = .draw ∨ bytesAtI s (x.val + 1) p) s u ∧
      (∀ a, u.mem.read a = t.mem.read a)

/-! ## Timers and keys -/

/-- The timer instructions: FX07 reads `DT`, FX15 writes `DT`, FX18 writes `ST` and sends no event
(45_timers_keys.md R160, R161, R162). -/
def Obligations.TimerInstructionsMoveBytes : Prop :=
  rowDecodes 0xF0FF 0xF007 (fun w => .ldVxDt (xField w)) ∧
  rowDecodes 0xF0FF 0xF015 (fun w => .ldDtVx (xField w)) ∧
  rowDecodes 0xF0FF 0xF018 (fun w => .ldStVx (xField w)) ∧
  ∀ (x : Reg) (s : State),
    completes (.ldVxDt x) s s.nextAddr false (fun p => p = .reg x) (fun t => t.reg x = s.dt) ∧
    completes (.ldDtVx x) s s.nextAddr false (fun p => p = .dt) (fun t => t.dt = s.reg x) ∧
    completes (.ldStVx x) s s.nextAddr false (fun p => p = .st) (fun t => t.st = s.reg x)

/-- FX0A enters the key wait, remembers `x`, and writes no register; `pc` is already past it
(rests on 45_timers_keys.md R163). -/
def Obligations.KeyWaitIsEntered : Prop :=
  rowDecodes 0xF0FF 0xF00A (fun w => .ldVxK (xField w)) ∧
  ∀ (x : Reg) (s : State),
    completes (.ldVxK x) s s.nextAddr false (fun p => p = .run) (fun t => t.run = .awaitingKey x)

/-- From the wait FX0A enters, no action but a key press and the host's reset ends it: every other one
that is allowed keeps waiting, `pc` and the registers unchanged, and a key release, a core step and the
tick of a positive timer are allowed. The first key press writes its key to `V[x]` and lets the core run
on at the address after the FX0A; a reset ends the wait too and writes no key (rests on
45_timers_keys.md R163, R164, R167, 60_exceptions.md R207, 70_reset_and_hazards.md R211). -/
def Obligations.KeyWaitEndsAtFirstPress : Prop :=
  ∀ (x : Reg) (k j : KeyIndex) (s t : State), exec (.ldVxK x) s = .next t →
    (∀ (a : Action) (u : State), (∀ d, a ≠ .keyDown d) → a ≠ .reset → act a t = .next u →
      u.run = .awaitingKey x ∧ u.pc = t.pc ∧ ∀ r, u.reg r = t.reg r) ∧
    (∃ u, act (.keyUp j) t = .next u) ∧
    (∃ u, act .cycle t = .next u) ∧
    (t.dt ≠ 0 → ∃ u, act .tickDt t = .next u) ∧
    (t.st ≠ 0 → ∃ u, act .tickSt t = .next u) ∧
    (∃ u, act (.keyDown k) t = .next u ∧ u.run = .running ∧ (u.reg x).toNat = k.val ∧
      u.pc.toNat = (s.pc.toNat + 2) % 4096 ∧
      changesOnlyIn [.run, .reg x, .key k, .lastKey] t u) ∧
    (∃ u, act .reset t = .next u ∧ u.run = .running ∧ ∀ r, u.reg r = 0)

/-- The timebase's ticks: each takes its positive timer down by 1, changes nothing else, is not allowed at
0 or in `Faulted`, and `tick_st` sends `Beep` exactly from 1 to 0 (45_timers_keys.md R164, R165; in what
form a tick that is not allowed is rejected is log 19). -/
def Obligations.TicksCountDownToZero : Prop :=
  (∀ s : State, s.live = true → s.dt ≠ 0 →
    ∃ t, act .tickDt s = .next t ∧ t.dt.toNat + 1 = s.dt.toNat ∧ changesOnlyIn [.dt] s t) ∧
  (∀ s : State, s.live = true → s.st ≠ 0 →
    ∃ t, act .tickSt s = .next t ∧ t.st.toNat + 1 = s.st.toNat ∧
      t.events = s.events ++ (if s.st = 1 then [.beep] else []) ∧
      changesOnlyIn [.st, .events] s t) ∧
  (∀ s t : State, s.dt = 0 ∨ s.live = false → act .tickDt s ≠ .next t) ∧
  (∀ s t : State, s.st = 0 ∨ s.live = false → act .tickSt s ≠ .next t)

/-- Key events: a press sets its key and the latch, and ends a pending wait with its key in the waiting
register; a release clears its key only and never ends a wait (45_timers_keys.md R166, R167). -/
def Obligations.KeyEventsSetKeysAndEndWaits : Prop :=
  (∀ (k : KeyIndex) (s : State), s.run = .running →
    ∃ t, act (.keyDown k) s = .next t ∧ t.key k = true ∧ t.lastKey = some k ∧
      changesOnlyIn [.key k, .lastKey] s t) ∧
  (∀ (k : KeyIndex) (r : Reg) (s : State), s.run = .awaitingKey r →
    ∃ t, act (.keyDown k) s = .next t ∧ t.key k = true ∧ t.lastKey = some k ∧
      (t.reg r).toNat = k.val ∧ t.run = .running ∧
      changesOnlyIn [.key k, .lastKey, .reg r, .run] s t) ∧
  (∀ (k : KeyIndex) (s : State), s.live = true →
    ∃ t, act (.keyUp k) s = .next t ∧ t.key k = false ∧ changesOnlyIn [.key k] s t)

/-! ## Graphics -/

/-- CLS makes every pixel unlit and sets `draw`; VF is not written (46_graphics.md R180). -/
def Obligations.ClearScreenUnlightsAll : Prop :=
  decode 0x00E0 = .instr .cls ∧
  ∀ s : State,
    completes .cls s s.nextAddr true (fun p => ∃ x y, p = .px x y)
      (fun t => ∀ x y, t.screen.px x y = false)

/-- DRW exclusive-ors the `n` bytes at `I` onto the screen at `(V[x], V[y])`, the anchor taken modulo 64 and
32 and nothing wrapped; VF is 1 exactly when a lit pixel was turned off; `draw` is set; memory is not
changed; and `MEM_OOB` is raised when the span leaves memory (46_graphics.md R181, R182). -/
def Obligations.DrawSpriteXorsAndCollides : Prop :=
  rowDecodes 0xF000 0xD000 (fun w => .drw (xField w) (yField w) (nField w)) ∧
  (∀ (x y : Reg) (n : Nibble) (s : State), s.i.toNat + n.toNat ≤ 4096 →
    completes (.drw x y n) s s.nextAddr true (fun p => p = .reg vf ∨ ∃ c r, p = .px c r)
      (fun t =>
        (∀ c r, t.screen.px c r = (s.screen.px c r ^^
          spriteBit (s.reg x) (s.reg y) (s.mem.readRange s.dataAddr n.toNat) c r)) ∧
        (t.reg vf = 1 ∨ t.reg vf = 0) ∧
        (t.reg vf = 1 ↔ ∃ c r, s.screen.px c r = true ∧ t.screen.px c r = false))) ∧
  (∀ (x y : Reg) (n : Nibble) (s : State), s.i.toNat + n.toNat > 4096 →
    faults (.drw x y n) s .memOob s.i)

/-- Two identical draws in a row restore every pixel, and the second one sets VF to 1 exactly when the
first drew a set bit onto an unlit pixel; identical needs the coordinates unchanged, which the first
draw's flag can break when `x` or `y` is 15 (rests on 46_graphics.md R183, which derives it from R181 and
R182). -/
def Obligations.DoubleDrawRestoresScreen : Prop :=
  ∀ (x y : Reg) (n : Nibble) (s : State), s.i.toNat + n.toNat ≤ 4096 →
    ∃ t, exec (.drw x y n) s = .next t ∧
      ((x ≠ vf → t.reg x = s.reg x) ∧ (y ≠ vf → t.reg y = s.reg y)) ∧
      (t.reg x = s.reg x → t.reg y = s.reg y →
        ∃ u, exec (.drw x y n) t = .next u ∧
          (∀ c r, u.screen.px c r = s.screen.px c r) ∧
          (u.reg vf = 1 ↔ ∃ c r, spriteBit (s.reg x) (s.reg y)
            (s.mem.readRange s.dataAddr n.toNat) c r = true ∧ s.screen.px c r = false))

/-! ## The whole machine -/

/-- Which instructions write what, over all instructions: `I` only ANNN, FX1E, FX29; the stack only CALL;
`sp` only CALL and RET; `DT` only FX15; `ST` only FX18; the screen only CLS and DRW; memory only FX33 and
FX55; the keypad none; `run` only FX0A and a fault (rests on 10_state.md R24 to R27, R29, R30, R32,
20_memory.md R55). -/
def Obligations.OnlyTheseInstructionsWrite : Prop :=
  ∀ (i : Instr) (s t : State), exec i s = .next t →
    ((∀ nnn, i ≠ .ldI nnn) → (∀ x, i ≠ .addI x) → (∀ x, i ≠ .ldF x) → t.i = s.i) ∧
    ((∀ nnn, i ≠ .call nnn) → t.stack = s.stack ∧ (i ≠ .ret → t.sp = s.sp)) ∧
    ((∀ x, i ≠ .ldDtVx x) → t.dt = s.dt) ∧
    ((∀ x, i ≠ .ldStVx x) → t.st = s.st) ∧
    (i ≠ .cls → (∀ x y n, i ≠ .drw x y n) → t.screen = s.screen) ∧
    ((∀ x, i ≠ .ldB x) → (∀ x, i ≠ .storeRegs x) → t.mem = s.mem) ∧
    t.keys = s.keys ∧ t.lastKey = s.lastKey ∧
    ((∀ x, i ≠ .ldVxK x) → t.run = s.run ∨ ∃ k a, t.run = .faulted k a)

/-- Which registers an instruction writes: its destination registers, and VF by the six opcodes that
write it as a flag (rests on 10_state.md R21, R22). -/
def Obligations.OnlyDestinationsAndFlagAreWritten : Prop :=
  ∀ (i : Instr) (s t : State) (r : Reg), exec i s = .next t → t.reg r ≠ s.reg r →
    hasDest i r ∨ (r = vf ∧ writesFlag i = true)

/-- The reset state meets the invariant (rests on 10_state.md R40). -/
def Obligations.ResetMeetsInvariant : Prop := State.reset.Inv

/-- Every step, of any agent, keeps the invariant: memory in its canonical form, `pc` and `I` below 4096,
stack entries at most 0x1000, a fault's record right (rests on 10_state.md R23, R24, R25, 60_exceptions.md
R191; the canonical form and the load window are the model's, logs 9 and 11). -/
def Obligations.StepKeepsInvariant : Prop :=
  ∀ s t : State, s.Inv → step s = .next t → t.Inv

/-- Reset, from every state that is not faulted, a key wait included, puts every piece of the spec's state
to its reset value, and it is not allowed in `Faulted` (rests on 70_reset_and_hazards.md R210, R211 and
10_state.md R40, R45). The model's own: the glyph bytes are the standard font, which R45 marks as general
knowledge (log 3); the draws, the events and the schedule go on (log 16); `load` is allowed again (logs 9
and 20). -/
def Obligations.ResetRestoresEveryValue : Prop :=
  (∀ s t : State, s.live = false → act .reset s ≠ .next t) ∧
  (∀ s : State, s.live = true →
    ∃ t, act .reset s = .next t ∧
      t.pc.toNat = 0x200 ∧ t.i = 0 ∧ t.sp.val = 0 ∧ t.dt = 0 ∧ t.st = 0 ∧ t.run = .running ∧
      t.lastKey = none ∧ t.draw = false ∧ (∀ r, t.reg r = 0) ∧ (∀ k, t.stackAt k = 0) ∧
      (∀ x y, t.screen.px x y = false) ∧ (∀ k, t.key k = false) ∧
      (∀ a, a < fontBase ∨ fontBase + 80 ≤ a → t.mem.read a = 0) ∧
      (∀ k : Fin 80, some (t.mem.read (fontBase + k.val)) = fontData[k.val]?) ∧
      t.loadOpen = true ∧
      t.draws = s.draws ∧ t.events = s.events ∧ t.schedule = s.schedule ∧
      changesOnlyIn [.draws, .events, .schedule] State.reset t) ∧
  fontData =
    [0xF0, 0x90, 0x90, 0x90, 0xF0, 0x20, 0x60, 0x20, 0x20, 0x70] ++
    [0xF0, 0x10, 0xF0, 0x80, 0xF0, 0xF0, 0x10, 0xF0, 0x10, 0xF0] ++
    [0x90, 0x90, 0xF0, 0x10, 0x10, 0xF0, 0x80, 0xF0, 0x10, 0xF0] ++
    [0xF0, 0x80, 0xF0, 0x90, 0xF0, 0xF0, 0x10, 0x20, 0x40, 0x40] ++
    [0xF0, 0x90, 0xF0, 0x90, 0xF0, 0xF0, 0x90, 0xF0, 0x10, 0xF0] ++
    [0xF0, 0x90, 0xF0, 0x90, 0x90, 0xE0, 0x90, 0xE0, 0x90, 0xE0] ++
    [0xF0, 0x80, 0x80, 0x80, 0xF0, 0xE0, 0x90, 0x90, 0x90, 0xE0] ++
    [0xF0, 0x80, 0xF0, 0x80, 0xF0, 0xF0, 0x80, 0xF0, 0x80, 0x80]

/-- Program load writes the image verbatim at 0x200 and nothing else, refuses an image that does not fit
with nothing written, and is not allowed once the core has taken a step or while it is faulted (rests on
70_reset_and_hazards.md R212 and 40_cycle.md R97). The model's own: the bit that tells whether the core
has taken a step, cleared by a step in `Running` (log 9), and the form of the refusal (log 19). -/
def Obligations.LoadWritesTheImage : Prop :=
  (∀ (rom : List Byte) (s : State), s.live = true → s.loadOpen = true →
    (0x200 + rom.length ≤ 4096 →
      ∃ t, act (.load rom) s = .next t ∧
        (∀ k : Fin rom.length, t.mem.read (0x200 + k.val) = rom[k]) ∧
        changesOnly (fun p => ∃ a, p = .byte a ∧ 0x200 ≤ a ∧ a < 0x200 + rom.length) s t) ∧
    (0x200 + rom.length > 4096 → act (.load rom) s = .refused .loadError)) ∧
  (∀ (rom : List Byte) (s t : State), s.loadOpen = false ∨ s.live = false →
    act (.load rom) s ≠ .next t) ∧
  (∀ s t : State, s.run = .running → cycle s = .next t → t.loadOpen = false)

/-- The pixel query: 2048 bytes, each 0 or 1, byte `y * 64 + x` being `Px[x][y]` (rests on 10_state.md R31,
which marks the row-major order as its own; log 18). -/
def Obligations.PixelQueryIsRowMajor : Prop :=
  ∀ s : State, s.pixels.length = 2048 ∧
    ∀ (x : Fin 64) (y : Fin 32),
      s.pixels[y.val * 64 + x.val]? = some (if s.screen.px x y = true then 1 else 0)

/-- Memory: a read gives the byte last written at its address, and a write leaves every other address alone
(rests on 20_memory.md R57). -/
def Obligations.MemoryReadsLastWrite : Prop :=
  ∀ (m : Memory) (a b : Nat) (x : Byte), (m.write a x).read b = if b = a then x else m.read b

/-- The canonical form: a write inside memory keeps it, and two memories in it that read the same
everywhere are equal data (the model's form of memory, log 11; rests on 10_state.md R33). -/
def Obligations.MemoryFormIsCanonical : Prop :=
  (∀ (m : Memory) (a : Nat) (x : Byte), m.wf = true → a < 4096 → (m.write a x).wf = true) ∧
  (∀ m m' : Memory, m.wf = true → m'.wf = true → (∀ a, m.read a = m'.read a) → m = m')

/-- The normal end of a run: from a state that has ended at `h`, a core step leaves everything but `draw`
unchanged and the state has still ended at `h` (rests on 40_cycle.md R99; that the step closes `load` is
the model's, log 9). -/
def Obligations.SelfJumpKeepsTheEnd : Prop :=
  ∀ (s : State) (h : Addr12), s.haltedAt h →
    ∃ t, cycle s = .next t ∧ t.haltedAt h ∧ t.draw = false ∧ changesOnlyIn [.draw, .loadOpen] s t
end

