-- ==== Sys2Proof/Laws/Encoding.lean ====
section
/-!
SUPPORT. The fields of a word as numbers (30_encoding.md R70), the fields of a packed word, and what a
mask of R74 says of the fields.
-/

namespace Sys2Proof

/-! ## Words of bytes -/

/-- The value of two appended bit vectors. -/
theorem toNat_append_eq {m n : Nat} (a : BitVec m) (b : BitVec n) :
    (a ++ b).toNat = a.toNat * 2 ^ n + b.toNat := by
  rw [BitVec.toNat_append, Nat.shiftLeft_eq, Nat.mul_comm, ← Nat.two_pow_add_eq_or_of_lt b.isLt]

/-- The value of a big-endian word (R52). -/
theorem wordOfBytes_toNat (hi lo : Byte) :
    (wordOfBytes hi lo).toNat = hi.toNat * 256 + lo.toNat := toNat_append_eq hi lo

/-- The big-endian word of a word's two bytes is the word (R52, R53). -/
@[simp] theorem wordOfBytes_hiByte_loByte (w : Word) : wordOfBytes (hiByte w) (loByte w) = w :=
  BitVec.extractLsb'_append_extractLsb' (w := 8) (len := 8)

/-! ## Fields as numbers -/

@[simp] theorem regOfNibble_nibbleOfReg (x : Reg) : regOfNibble (nibbleOfReg x) = x := rfl

@[simp] theorem nibbleOfReg_regOfNibble (b : Nibble) : nibbleOfReg (regOfNibble b) = b := rfl

theorem nibbleOfReg_toNat (x : Reg) : (nibbleOfReg x).toNat = x.val := rfl

theorem opField_toNat (w : Word) : (opField w).toNat = w.toNat / 4096 := by
  have := w.isLt
  simp only [opField, BitVec.extractLsb'_toNat, Nat.shiftRight_eq_div_pow]; omega

theorem xField_val (w : Word) : (xField w).val = w.toNat / 256 % 16 := by
  change (BitVec.extractLsb' 8 4 w).toNat = _
  simp only [BitVec.extractLsb'_toNat, Nat.shiftRight_eq_div_pow]

theorem yField_val (w : Word) : (yField w).val = w.toNat / 16 % 16 := by
  change (BitVec.extractLsb' 4 4 w).toNat = _
  simp only [BitVec.extractLsb'_toNat, Nat.shiftRight_eq_div_pow]

theorem nField_toNat (w : Word) : (nField w).toNat = w.toNat % 16 := by
  simp only [nField, BitVec.extractLsb'_toNat, Nat.shiftRight_eq_div_pow, pow_zero, Nat.div_one]

theorem kkField_toNat (w : Word) : (kkField w).toNat = w.toNat % 256 := by
  simp only [kkField, BitVec.extractLsb'_toNat, Nat.shiftRight_eq_div_pow, pow_zero, Nat.div_one]

theorem nnnField_toNat (w : Word) : (nnnField w).toNat = w.toNat % 4096 := by
  simp only [nnnField, BitVec.extractLsb'_toNat, Nat.shiftRight_eq_div_pow, pow_zero, Nat.div_one]

/-! ## Packed words -/

theorem packNNN_toNat (op : Nibble) (nnn : Addr12) :
    (packNNN op nnn).toNat = op.toNat * 4096 + nnn.toNat := toNat_append_eq op nnn

theorem packXKK_toNat (op : Nibble) (x : Reg) (kk : Byte) :
    (packXKK op x kk).toNat = op.toNat * 4096 + x.val * 256 + kk.toNat := by
  have h1 : (packXKK op x kk).toNat = (op ++ nibbleOfReg x : Byte).toNat * 256 + kk.toNat :=
    toNat_append_eq (m := 8) (n := 8) _ kk
  have h2 : (op ++ nibbleOfReg x : Byte).toNat = op.toNat * 16 + x.val :=
    toNat_append_eq op (nibbleOfReg x)
  rw [h1, h2]; ring

theorem packXYN_toNat (op : Nibble) (x y : Reg) (n : Nibble) :
    (packXYN op x y n).toNat = op.toNat * 4096 + x.val * 256 + y.val * 16 + n.toNat := by
  have h1 : (packXYN op x y n).toNat =
      (op ++ nibbleOfReg x : Byte).toNat * 256 + (nibbleOfReg y ++ n : Byte).toNat :=
    toNat_append_eq (m := 8) (n := 8) _ _
  have h2 : (op ++ nibbleOfReg x : Byte).toNat = op.toNat * 16 + x.val :=
    toNat_append_eq op (nibbleOfReg x)
  have h3 : (nibbleOfReg y ++ n : Byte).toNat = y.val * 16 + n.toNat :=
    toNat_append_eq (nibbleOfReg y) n
  rw [h1, h2, h3]; ring

section FieldsOfPackedWords

variable (op : Nibble) (x y : Reg) (n : Nibble) (kk : Byte) (nnn : Addr12)

@[simp] theorem opField_packNNN : opField (packNNN op nnn) = op := by
  apply BitVec.eq_of_toNat_eq; rw [opField_toNat, packNNN_toNat]; omega

@[simp] theorem nnnField_packNNN : nnnField (packNNN op nnn) = nnn := by
  apply BitVec.eq_of_toNat_eq; rw [nnnField_toNat, packNNN_toNat]; omega

@[simp] theorem opField_packXKK : opField (packXKK op x kk) = op := by
  apply BitVec.eq_of_toNat_eq; rw [opField_toNat, packXKK_toNat]; omega

@[simp] theorem xField_packXKK : xField (packXKK op x kk) = x := by
  apply Fin.ext; rw [xField_val, packXKK_toNat]; omega

@[simp] theorem kkField_packXKK : kkField (packXKK op x kk) = kk := by
  apply BitVec.eq_of_toNat_eq; rw [kkField_toNat, packXKK_toNat]; omega

@[simp] theorem opField_packXYN : opField (packXYN op x y n) = op := by
  apply BitVec.eq_of_toNat_eq; rw [opField_toNat, packXYN_toNat]; omega

@[simp] theorem xField_packXYN : xField (packXYN op x y n) = x := by
  apply Fin.ext; rw [xField_val, packXYN_toNat]; omega

@[simp] theorem yField_packXYN : yField (packXYN op x y n) = y := by
  apply Fin.ext; rw [yField_val, packXYN_toNat]; omega

@[simp] theorem nField_packXYN : nField (packXYN op x y n) = n := by
  apply BitVec.eq_of_toNat_eq; rw [nField_toNat, packXYN_toNat]; omega

end FieldsOfPackedWords

/-! ## Words from their fields -/

theorem packNNN_fields (w : Word) : packNNN (opField w) (nnnField w) = w := by
  apply BitVec.eq_of_toNat_eq
  rw [packNNN_toNat, opField_toNat, nnnField_toNat]; omega

theorem packXKK_fields (w : Word) : packXKK (opField w) (xField w) (kkField w) = w := by
  apply BitVec.eq_of_toNat_eq
  rw [packXKK_toNat, opField_toNat, xField_val, kkField_toNat]; omega

theorem packXYN_fields (w : Word) : packXYN (opField w) (xField w) (yField w) (nField w) = w := by
  apply BitVec.eq_of_toNat_eq
  rw [packXYN_toNat, opField_toNat, xField_val, yField_val, nField_toNat]; omega

/-! ## Masks (R74) -/

/-- A masked word equal to a match gives the same equation on every field of bits. -/
theorem extract_of_mask {w m c : Word} (h : w &&& m = c) (s l : Nat) :
    w.extractLsb' s l &&& m.extractLsb' s l = c.extractLsb' s l := by
  rw [← BitVec.extractLsb'_and, h]

/-- The mask's top nibble is `F`: the match fixes the family. -/
theorem opField_of_mask {w m c : Word} (h : w &&& m = c) (hm : opField m = 0xF) :
    opField w = opField c := by
  have := extract_of_mask h 12 4
  change opField w &&& opField m = opField c at this
  rwa [hm, show (0xF : Nibble) = BitVec.allOnes 4 from rfl, BitVec.and_allOnes] at this

/-- The mask's low nibble is `F`: the match fixes `n`. -/
theorem nField_of_mask {w m c : Word} (h : w &&& m = c) (hm : nField m = 0xF) :
    nField w = nField c := by
  have := extract_of_mask h 0 4
  change nField w &&& nField m = nField c at this
  rwa [hm, show (0xF : Nibble) = BitVec.allOnes 4 from rfl, BitVec.and_allOnes] at this

/-- The mask's low byte is `FF`: the match fixes `kk`. -/
theorem kkField_of_mask {w m c : Word} (h : w &&& m = c) (hm : kkField m = 0xFF) :
    kkField w = kkField c := by
  have := extract_of_mask h 0 8
  change kkField w &&& kkField m = kkField c at this
  rwa [hm, show (0xFF : Byte) = BitVec.allOnes 8 from rfl, BitVec.and_allOnes] at this

end Sys2Proof
end

