-- ==== Sys2Proof/Laws/State.lean ====
section
/-!
SUPPORT. One lemma per field per update of State, true by rfl, so that no later proof unfolds a record
update; then what a register, key or stack write does to a read, and the effect of the compound updates.
-/

namespace Sys2Proof.Machine

section FieldsOfUpdates

variable (s : State)

@[simp] theorem State.setReg_v (x : Reg) (b : Byte) : (s.setReg x b).v = s.v.set x b := rfl
@[simp] theorem State.setReg_i (x : Reg) (b : Byte) : (s.setReg x b).i = s.i := rfl
@[simp] theorem State.setReg_pc (x : Reg) (b : Byte) : (s.setReg x b).pc = s.pc := rfl
@[simp] theorem State.setReg_sp (x : Reg) (b : Byte) : (s.setReg x b).sp = s.sp := rfl
@[simp] theorem State.setReg_stack (x : Reg) (b : Byte) : (s.setReg x b).stack = s.stack := rfl
@[simp] theorem State.setReg_dt (x : Reg) (b : Byte) : (s.setReg x b).dt = s.dt := rfl
@[simp] theorem State.setReg_st (x : Reg) (b : Byte) : (s.setReg x b).st = s.st := rfl
@[simp] theorem State.setReg_run (x : Reg) (b : Byte) : (s.setReg x b).run = s.run := rfl
@[simp] theorem State.setReg_screen (x : Reg) (b : Byte) : (s.setReg x b).screen = s.screen := rfl
@[simp] theorem State.setReg_keys (x : Reg) (b : Byte) : (s.setReg x b).keys = s.keys := rfl
@[simp] theorem State.setReg_lastKey (x : Reg) (b : Byte) : (s.setReg x b).lastKey = s.lastKey := rfl
@[simp] theorem State.setReg_mem (x : Reg) (b : Byte) : (s.setReg x b).mem = s.mem := rfl
@[simp] theorem State.setReg_draw (x : Reg) (b : Byte) : (s.setReg x b).draw = s.draw := rfl
@[simp] theorem State.setReg_draws (x : Reg) (b : Byte) : (s.setReg x b).draws = s.draws := rfl
@[simp] theorem State.setReg_events (x : Reg) (b : Byte) : (s.setReg x b).events = s.events := rfl
@[simp] theorem State.setReg_schedule (x : Reg) (b : Byte) : (s.setReg x b).schedule = s.schedule := rfl
@[simp] theorem State.setReg_loadOpen (x : Reg) (b : Byte) : (s.setReg x b).loadOpen = s.loadOpen := rfl
@[simp] theorem State.setReg_stackAt (x : Reg) (b : Byte) (j : Fin 16) : (s.setReg x b).stackAt j = s.stackAt j := rfl
@[simp] theorem State.setReg_key (x : Reg) (b : Byte) (j : KeyIndex) : (s.setReg x b).key j = s.key j := rfl
@[simp] theorem State.setReg_live (x : Reg) (b : Byte) : (s.setReg x b).live = s.live := rfl
@[simp] theorem State.setReg_dataAddr (x : Reg) (b : Byte) : (s.setReg x b).dataAddr = s.dataAddr := rfl
@[simp] theorem State.setReg_nextDraw (x : Reg) (b : Byte) : (s.setReg x b).nextDraw = s.nextDraw := rfl

@[simp] theorem State.setV_v (w : Vector Byte 16) : (s.setV w).v = w := rfl
@[simp] theorem State.setV_i (w : Vector Byte 16) : (s.setV w).i = s.i := rfl
@[simp] theorem State.setV_pc (w : Vector Byte 16) : (s.setV w).pc = s.pc := rfl
@[simp] theorem State.setV_sp (w : Vector Byte 16) : (s.setV w).sp = s.sp := rfl
@[simp] theorem State.setV_stack (w : Vector Byte 16) : (s.setV w).stack = s.stack := rfl
@[simp] theorem State.setV_dt (w : Vector Byte 16) : (s.setV w).dt = s.dt := rfl
@[simp] theorem State.setV_st (w : Vector Byte 16) : (s.setV w).st = s.st := rfl
@[simp] theorem State.setV_run (w : Vector Byte 16) : (s.setV w).run = s.run := rfl
@[simp] theorem State.setV_screen (w : Vector Byte 16) : (s.setV w).screen = s.screen := rfl
@[simp] theorem State.setV_keys (w : Vector Byte 16) : (s.setV w).keys = s.keys := rfl
@[simp] theorem State.setV_lastKey (w : Vector Byte 16) : (s.setV w).lastKey = s.lastKey := rfl
@[simp] theorem State.setV_mem (w : Vector Byte 16) : (s.setV w).mem = s.mem := rfl
@[simp] theorem State.setV_draw (w : Vector Byte 16) : (s.setV w).draw = s.draw := rfl
@[simp] theorem State.setV_draws (w : Vector Byte 16) : (s.setV w).draws = s.draws := rfl
@[simp] theorem State.setV_events (w : Vector Byte 16) : (s.setV w).events = s.events := rfl
@[simp] theorem State.setV_schedule (w : Vector Byte 16) : (s.setV w).schedule = s.schedule := rfl
@[simp] theorem State.setV_loadOpen (w : Vector Byte 16) : (s.setV w).loadOpen = s.loadOpen := rfl
@[simp] theorem State.setV_stackAt (w : Vector Byte 16) (j : Fin 16) : (s.setV w).stackAt j = s.stackAt j := rfl
@[simp] theorem State.setV_key (w : Vector Byte 16) (j : KeyIndex) : (s.setV w).key j = s.key j := rfl
@[simp] theorem State.setV_live (w : Vector Byte 16) : (s.setV w).live = s.live := rfl
@[simp] theorem State.setV_dataAddr (w : Vector Byte 16) : (s.setV w).dataAddr = s.dataAddr := rfl
@[simp] theorem State.setV_nextDraw (w : Vector Byte 16) : (s.setV w).nextDraw = s.nextDraw := rfl

@[simp] theorem State.setI_v (a : Word) : (s.setI a).v = s.v := rfl
@[simp] theorem State.setI_i (a : Word) : (s.setI a).i = a := rfl
@[simp] theorem State.setI_pc (a : Word) : (s.setI a).pc = s.pc := rfl
@[simp] theorem State.setI_sp (a : Word) : (s.setI a).sp = s.sp := rfl
@[simp] theorem State.setI_stack (a : Word) : (s.setI a).stack = s.stack := rfl
@[simp] theorem State.setI_dt (a : Word) : (s.setI a).dt = s.dt := rfl
@[simp] theorem State.setI_st (a : Word) : (s.setI a).st = s.st := rfl
@[simp] theorem State.setI_run (a : Word) : (s.setI a).run = s.run := rfl
@[simp] theorem State.setI_screen (a : Word) : (s.setI a).screen = s.screen := rfl
@[simp] theorem State.setI_keys (a : Word) : (s.setI a).keys = s.keys := rfl
@[simp] theorem State.setI_lastKey (a : Word) : (s.setI a).lastKey = s.lastKey := rfl
@[simp] theorem State.setI_mem (a : Word) : (s.setI a).mem = s.mem := rfl
@[simp] theorem State.setI_draw (a : Word) : (s.setI a).draw = s.draw := rfl
@[simp] theorem State.setI_draws (a : Word) : (s.setI a).draws = s.draws := rfl
@[simp] theorem State.setI_events (a : Word) : (s.setI a).events = s.events := rfl
@[simp] theorem State.setI_schedule (a : Word) : (s.setI a).schedule = s.schedule := rfl
@[simp] theorem State.setI_loadOpen (a : Word) : (s.setI a).loadOpen = s.loadOpen := rfl
@[simp] theorem State.setI_reg (a : Word) (q : Reg) : (s.setI a).reg q = s.reg q := rfl
@[simp] theorem State.setI_stackAt (a : Word) (j : Fin 16) : (s.setI a).stackAt j = s.stackAt j := rfl
@[simp] theorem State.setI_key (a : Word) (j : KeyIndex) : (s.setI a).key j = s.key j := rfl
@[simp] theorem State.setI_live (a : Word) : (s.setI a).live = s.live := rfl
@[simp] theorem State.setI_nextDraw (a : Word) : (s.setI a).nextDraw = s.nextDraw := rfl

@[simp] theorem State.setPc_v (a : Word) : (s.setPc a).v = s.v := rfl
@[simp] theorem State.setPc_i (a : Word) : (s.setPc a).i = s.i := rfl
@[simp] theorem State.setPc_pc (a : Word) : (s.setPc a).pc = a := rfl
@[simp] theorem State.setPc_sp (a : Word) : (s.setPc a).sp = s.sp := rfl
@[simp] theorem State.setPc_stack (a : Word) : (s.setPc a).stack = s.stack := rfl
@[simp] theorem State.setPc_dt (a : Word) : (s.setPc a).dt = s.dt := rfl
@[simp] theorem State.setPc_st (a : Word) : (s.setPc a).st = s.st := rfl
@[simp] theorem State.setPc_run (a : Word) : (s.setPc a).run = s.run := rfl
@[simp] theorem State.setPc_screen (a : Word) : (s.setPc a).screen = s.screen := rfl
@[simp] theorem State.setPc_keys (a : Word) : (s.setPc a).keys = s.keys := rfl
@[simp] theorem State.setPc_lastKey (a : Word) : (s.setPc a).lastKey = s.lastKey := rfl
@[simp] theorem State.setPc_mem (a : Word) : (s.setPc a).mem = s.mem := rfl
@[simp] theorem State.setPc_draw (a : Word) : (s.setPc a).draw = s.draw := rfl
@[simp] theorem State.setPc_draws (a : Word) : (s.setPc a).draws = s.draws := rfl
@[simp] theorem State.setPc_events (a : Word) : (s.setPc a).events = s.events := rfl
@[simp] theorem State.setPc_schedule (a : Word) : (s.setPc a).schedule = s.schedule := rfl
@[simp] theorem State.setPc_loadOpen (a : Word) : (s.setPc a).loadOpen = s.loadOpen := rfl
@[simp] theorem State.setPc_reg (a : Word) (q : Reg) : (s.setPc a).reg q = s.reg q := rfl
@[simp] theorem State.setPc_stackAt (a : Word) (j : Fin 16) : (s.setPc a).stackAt j = s.stackAt j := rfl
@[simp] theorem State.setPc_key (a : Word) (j : KeyIndex) : (s.setPc a).key j = s.key j := rfl
@[simp] theorem State.setPc_live (a : Word) : (s.setPc a).live = s.live := rfl
@[simp] theorem State.setPc_dataAddr (a : Word) : (s.setPc a).dataAddr = s.dataAddr := rfl
@[simp] theorem State.setPc_nextDraw (a : Word) : (s.setPc a).nextDraw = s.nextDraw := rfl

@[simp] theorem State.setDt_v (b : Byte) : (s.setDt b).v = s.v := rfl
@[simp] theorem State.setDt_i (b : Byte) : (s.setDt b).i = s.i := rfl
@[simp] theorem State.setDt_pc (b : Byte) : (s.setDt b).pc = s.pc := rfl
@[simp] theorem State.setDt_sp (b : Byte) : (s.setDt b).sp = s.sp := rfl
@[simp] theorem State.setDt_stack (b : Byte) : (s.setDt b).stack = s.stack := rfl
@[simp] theorem State.setDt_dt (b : Byte) : (s.setDt b).dt = b := rfl
@[simp] theorem State.setDt_st (b : Byte) : (s.setDt b).st = s.st := rfl
@[simp] theorem State.setDt_run (b : Byte) : (s.setDt b).run = s.run := rfl
@[simp] theorem State.setDt_screen (b : Byte) : (s.setDt b).screen = s.screen := rfl
@[simp] theorem State.setDt_keys (b : Byte) : (s.setDt b).keys = s.keys := rfl
@[simp] theorem State.setDt_lastKey (b : Byte) : (s.setDt b).lastKey = s.lastKey := rfl
@[simp] theorem State.setDt_mem (b : Byte) : (s.setDt b).mem = s.mem := rfl
@[simp] theorem State.setDt_draw (b : Byte) : (s.setDt b).draw = s.draw := rfl
@[simp] theorem State.setDt_draws (b : Byte) : (s.setDt b).draws = s.draws := rfl
@[simp] theorem State.setDt_events (b : Byte) : (s.setDt b).events = s.events := rfl
@[simp] theorem State.setDt_schedule (b : Byte) : (s.setDt b).schedule = s.schedule := rfl
@[simp] theorem State.setDt_loadOpen (b : Byte) : (s.setDt b).loadOpen = s.loadOpen := rfl
@[simp] theorem State.setDt_reg (b : Byte) (q : Reg) : (s.setDt b).reg q = s.reg q := rfl
@[simp] theorem State.setDt_stackAt (b : Byte) (j : Fin 16) : (s.setDt b).stackAt j = s.stackAt j := rfl
@[simp] theorem State.setDt_key (b : Byte) (j : KeyIndex) : (s.setDt b).key j = s.key j := rfl
@[simp] theorem State.setDt_live (b : Byte) : (s.setDt b).live = s.live := rfl
@[simp] theorem State.setDt_dataAddr (b : Byte) : (s.setDt b).dataAddr = s.dataAddr := rfl
@[simp] theorem State.setDt_nextDraw (b : Byte) : (s.setDt b).nextDraw = s.nextDraw := rfl

@[simp] theorem State.setSt_v (b : Byte) : (s.setSt b).v = s.v := rfl
@[simp] theorem State.setSt_i (b : Byte) : (s.setSt b).i = s.i := rfl
@[simp] theorem State.setSt_pc (b : Byte) : (s.setSt b).pc = s.pc := rfl
@[simp] theorem State.setSt_sp (b : Byte) : (s.setSt b).sp = s.sp := rfl
@[simp] theorem State.setSt_stack (b : Byte) : (s.setSt b).stack = s.stack := rfl
@[simp] theorem State.setSt_dt (b : Byte) : (s.setSt b).dt = s.dt := rfl
@[simp] theorem State.setSt_st (b : Byte) : (s.setSt b).st = b := rfl
@[simp] theorem State.setSt_run (b : Byte) : (s.setSt b).run = s.run := rfl
@[simp] theorem State.setSt_screen (b : Byte) : (s.setSt b).screen = s.screen := rfl
@[simp] theorem State.setSt_keys (b : Byte) : (s.setSt b).keys = s.keys := rfl
@[simp] theorem State.setSt_lastKey (b : Byte) : (s.setSt b).lastKey = s.lastKey := rfl
@[simp] theorem State.setSt_mem (b : Byte) : (s.setSt b).mem = s.mem := rfl
@[simp] theorem State.setSt_draw (b : Byte) : (s.setSt b).draw = s.draw := rfl
@[simp] theorem State.setSt_draws (b : Byte) : (s.setSt b).draws = s.draws := rfl
@[simp] theorem State.setSt_events (b : Byte) : (s.setSt b).events = s.events := rfl
@[simp] theorem State.setSt_schedule (b : Byte) : (s.setSt b).schedule = s.schedule := rfl
@[simp] theorem State.setSt_loadOpen (b : Byte) : (s.setSt b).loadOpen = s.loadOpen := rfl
@[simp] theorem State.setSt_reg (b : Byte) (q : Reg) : (s.setSt b).reg q = s.reg q := rfl
@[simp] theorem State.setSt_stackAt (b : Byte) (j : Fin 16) : (s.setSt b).stackAt j = s.stackAt j := rfl
@[simp] theorem State.setSt_key (b : Byte) (j : KeyIndex) : (s.setSt b).key j = s.key j := rfl
@[simp] theorem State.setSt_live (b : Byte) : (s.setSt b).live = s.live := rfl
@[simp] theorem State.setSt_dataAddr (b : Byte) : (s.setSt b).dataAddr = s.dataAddr := rfl
@[simp] theorem State.setSt_nextDraw (b : Byte) : (s.setSt b).nextDraw = s.nextDraw := rfl

@[simp] theorem State.setRun_v (r : RunState) : (s.setRun r).v = s.v := rfl
@[simp] theorem State.setRun_i (r : RunState) : (s.setRun r).i = s.i := rfl
@[simp] theorem State.setRun_pc (r : RunState) : (s.setRun r).pc = s.pc := rfl
@[simp] theorem State.setRun_sp (r : RunState) : (s.setRun r).sp = s.sp := rfl
@[simp] theorem State.setRun_stack (r : RunState) : (s.setRun r).stack = s.stack := rfl
@[simp] theorem State.setRun_dt (r : RunState) : (s.setRun r).dt = s.dt := rfl
@[simp] theorem State.setRun_st (r : RunState) : (s.setRun r).st = s.st := rfl
@[simp] theorem State.setRun_run (r : RunState) : (s.setRun r).run = r := rfl
@[simp] theorem State.setRun_screen (r : RunState) : (s.setRun r).screen = s.screen := rfl
@[simp] theorem State.setRun_keys (r : RunState) : (s.setRun r).keys = s.keys := rfl
@[simp] theorem State.setRun_lastKey (r : RunState) : (s.setRun r).lastKey = s.lastKey := rfl
@[simp] theorem State.setRun_mem (r : RunState) : (s.setRun r).mem = s.mem := rfl
@[simp] theorem State.setRun_draw (r : RunState) : (s.setRun r).draw = s.draw := rfl
@[simp] theorem State.setRun_draws (r : RunState) : (s.setRun r).draws = s.draws := rfl
@[simp] theorem State.setRun_events (r : RunState) : (s.setRun r).events = s.events := rfl
@[simp] theorem State.setRun_schedule (r : RunState) : (s.setRun r).schedule = s.schedule := rfl
@[simp] theorem State.setRun_loadOpen (r : RunState) : (s.setRun r).loadOpen = s.loadOpen := rfl
@[simp] theorem State.setRun_reg (r : RunState) (q : Reg) : (s.setRun r).reg q = s.reg q := rfl
@[simp] theorem State.setRun_stackAt (r : RunState) (j : Fin 16) : (s.setRun r).stackAt j = s.stackAt j := rfl
@[simp] theorem State.setRun_key (r : RunState) (j : KeyIndex) : (s.setRun r).key j = s.key j := rfl
@[simp] theorem State.setRun_dataAddr (r : RunState) : (s.setRun r).dataAddr = s.dataAddr := rfl
@[simp] theorem State.setRun_nextDraw (r : RunState) : (s.setRun r).nextDraw = s.nextDraw := rfl

@[simp] theorem State.setScreen_v (p : Screen) : (s.setScreen p).v = s.v := rfl
@[simp] theorem State.setScreen_i (p : Screen) : (s.setScreen p).i = s.i := rfl
@[simp] theorem State.setScreen_pc (p : Screen) : (s.setScreen p).pc = s.pc := rfl
@[simp] theorem State.setScreen_sp (p : Screen) : (s.setScreen p).sp = s.sp := rfl
@[simp] theorem State.setScreen_stack (p : Screen) : (s.setScreen p).stack = s.stack := rfl
@[simp] theorem State.setScreen_dt (p : Screen) : (s.setScreen p).dt = s.dt := rfl
@[simp] theorem State.setScreen_st (p : Screen) : (s.setScreen p).st = s.st := rfl
@[simp] theorem State.setScreen_run (p : Screen) : (s.setScreen p).run = s.run := rfl
@[simp] theorem State.setScreen_screen (p : Screen) : (s.setScreen p).screen = p := rfl
@[simp] theorem State.setScreen_keys (p : Screen) : (s.setScreen p).keys = s.keys := rfl
@[simp] theorem State.setScreen_lastKey (p : Screen) : (s.setScreen p).lastKey = s.lastKey := rfl
@[simp] theorem State.setScreen_mem (p : Screen) : (s.setScreen p).mem = s.mem := rfl
@[simp] theorem State.setScreen_draw (p : Screen) : (s.setScreen p).draw = s.draw := rfl
@[simp] theorem State.setScreen_draws (p : Screen) : (s.setScreen p).draws = s.draws := rfl
@[simp] theorem State.setScreen_events (p : Screen) : (s.setScreen p).events = s.events := rfl
@[simp] theorem State.setScreen_schedule (p : Screen) : (s.setScreen p).schedule = s.schedule := rfl
@[simp] theorem State.setScreen_loadOpen (p : Screen) : (s.setScreen p).loadOpen = s.loadOpen := rfl
@[simp] theorem State.setScreen_reg (p : Screen) (q : Reg) : (s.setScreen p).reg q = s.reg q := rfl
@[simp] theorem State.setScreen_stackAt (p : Screen) (j : Fin 16) : (s.setScreen p).stackAt j = s.stackAt j := rfl
@[simp] theorem State.setScreen_key (p : Screen) (j : KeyIndex) : (s.setScreen p).key j = s.key j := rfl
@[simp] theorem State.setScreen_live (p : Screen) : (s.setScreen p).live = s.live := rfl
@[simp] theorem State.setScreen_dataAddr (p : Screen) : (s.setScreen p).dataAddr = s.dataAddr := rfl
@[simp] theorem State.setScreen_nextDraw (p : Screen) : (s.setScreen p).nextDraw = s.nextDraw := rfl

@[simp] theorem State.setKey_v (k : KeyIndex) (b : Bool) : (s.setKey k b).v = s.v := rfl
@[simp] theorem State.setKey_i (k : KeyIndex) (b : Bool) : (s.setKey k b).i = s.i := rfl
@[simp] theorem State.setKey_pc (k : KeyIndex) (b : Bool) : (s.setKey k b).pc = s.pc := rfl
@[simp] theorem State.setKey_sp (k : KeyIndex) (b : Bool) : (s.setKey k b).sp = s.sp := rfl
@[simp] theorem State.setKey_stack (k : KeyIndex) (b : Bool) : (s.setKey k b).stack = s.stack := rfl
@[simp] theorem State.setKey_dt (k : KeyIndex) (b : Bool) : (s.setKey k b).dt = s.dt := rfl
@[simp] theorem State.setKey_st (k : KeyIndex) (b : Bool) : (s.setKey k b).st = s.st := rfl
@[simp] theorem State.setKey_run (k : KeyIndex) (b : Bool) : (s.setKey k b).run = s.run := rfl
@[simp] theorem State.setKey_screen (k : KeyIndex) (b : Bool) : (s.setKey k b).screen = s.screen := rfl
@[simp] theorem State.setKey_keys (k : KeyIndex) (b : Bool) : (s.setKey k b).keys = s.keys.set k b := rfl
@[simp] theorem State.setKey_lastKey (k : KeyIndex) (b : Bool) : (s.setKey k b).lastKey = s.lastKey := rfl
@[simp] theorem State.setKey_mem (k : KeyIndex) (b : Bool) : (s.setKey k b).mem = s.mem := rfl
@[simp] theorem State.setKey_draw (k : KeyIndex) (b : Bool) : (s.setKey k b).draw = s.draw := rfl
@[simp] theorem State.setKey_draws (k : KeyIndex) (b : Bool) : (s.setKey k b).draws = s.draws := rfl
@[simp] theorem State.setKey_events (k : KeyIndex) (b : Bool) : (s.setKey k b).events = s.events := rfl
@[simp] theorem State.setKey_schedule (k : KeyIndex) (b : Bool) : (s.setKey k b).schedule = s.schedule := rfl
@[simp] theorem State.setKey_loadOpen (k : KeyIndex) (b : Bool) : (s.setKey k b).loadOpen = s.loadOpen := rfl
@[simp] theorem State.setKey_reg (k : KeyIndex) (b : Bool) (q : Reg) : (s.setKey k b).reg q = s.reg q := rfl
@[simp] theorem State.setKey_stackAt (k : KeyIndex) (b : Bool) (j : Fin 16) : (s.setKey k b).stackAt j = s.stackAt j := rfl
@[simp] theorem State.setKey_live (k : KeyIndex) (b : Bool) : (s.setKey k b).live = s.live := rfl
@[simp] theorem State.setKey_dataAddr (k : KeyIndex) (b : Bool) : (s.setKey k b).dataAddr = s.dataAddr := rfl
@[simp] theorem State.setKey_nextDraw (k : KeyIndex) (b : Bool) : (s.setKey k b).nextDraw = s.nextDraw := rfl

@[simp] theorem State.setLastKey_v (k : Option KeyIndex) : (s.setLastKey k).v = s.v := rfl
@[simp] theorem State.setLastKey_i (k : Option KeyIndex) : (s.setLastKey k).i = s.i := rfl
@[simp] theorem State.setLastKey_pc (k : Option KeyIndex) : (s.setLastKey k).pc = s.pc := rfl
@[simp] theorem State.setLastKey_sp (k : Option KeyIndex) : (s.setLastKey k).sp = s.sp := rfl
@[simp] theorem State.setLastKey_stack (k : Option KeyIndex) : (s.setLastKey k).stack = s.stack := rfl
@[simp] theorem State.setLastKey_dt (k : Option KeyIndex) : (s.setLastKey k).dt = s.dt := rfl
@[simp] theorem State.setLastKey_st (k : Option KeyIndex) : (s.setLastKey k).st = s.st := rfl
@[simp] theorem State.setLastKey_run (k : Option KeyIndex) : (s.setLastKey k).run = s.run := rfl
@[simp] theorem State.setLastKey_screen (k : Option KeyIndex) : (s.setLastKey k).screen = s.screen := rfl
@[simp] theorem State.setLastKey_keys (k : Option KeyIndex) : (s.setLastKey k).keys = s.keys := rfl
@[simp] theorem State.setLastKey_lastKey (k : Option KeyIndex) : (s.setLastKey k).lastKey = k := rfl
@[simp] theorem State.setLastKey_mem (k : Option KeyIndex) : (s.setLastKey k).mem = s.mem := rfl
@[simp] theorem State.setLastKey_draw (k : Option KeyIndex) : (s.setLastKey k).draw = s.draw := rfl
@[simp] theorem State.setLastKey_draws (k : Option KeyIndex) : (s.setLastKey k).draws = s.draws := rfl
@[simp] theorem State.setLastKey_events (k : Option KeyIndex) : (s.setLastKey k).events = s.events := rfl
@[simp] theorem State.setLastKey_schedule (k : Option KeyIndex) : (s.setLastKey k).schedule = s.schedule := rfl
@[simp] theorem State.setLastKey_loadOpen (k : Option KeyIndex) : (s.setLastKey k).loadOpen = s.loadOpen := rfl
@[simp] theorem State.setLastKey_reg (k : Option KeyIndex) (q : Reg) : (s.setLastKey k).reg q = s.reg q := rfl
@[simp] theorem State.setLastKey_stackAt (k : Option KeyIndex) (j : Fin 16) : (s.setLastKey k).stackAt j = s.stackAt j := rfl
@[simp] theorem State.setLastKey_key (k : Option KeyIndex) (j : KeyIndex) : (s.setLastKey k).key j = s.key j := rfl
@[simp] theorem State.setLastKey_live (k : Option KeyIndex) : (s.setLastKey k).live = s.live := rfl
@[simp] theorem State.setLastKey_dataAddr (k : Option KeyIndex) : (s.setLastKey k).dataAddr = s.dataAddr := rfl
@[simp] theorem State.setLastKey_nextDraw (k : Option KeyIndex) : (s.setLastKey k).nextDraw = s.nextDraw := rfl

@[simp] theorem State.setMem_v (m : Memory) : (s.setMem m).v = s.v := rfl
@[simp] theorem State.setMem_i (m : Memory) : (s.setMem m).i = s.i := rfl
@[simp] theorem State.setMem_pc (m : Memory) : (s.setMem m).pc = s.pc := rfl
@[simp] theorem State.setMem_sp (m : Memory) : (s.setMem m).sp = s.sp := rfl
@[simp] theorem State.setMem_stack (m : Memory) : (s.setMem m).stack = s.stack := rfl
@[simp] theorem State.setMem_dt (m : Memory) : (s.setMem m).dt = s.dt := rfl
@[simp] theorem State.setMem_st (m : Memory) : (s.setMem m).st = s.st := rfl
@[simp] theorem State.setMem_run (m : Memory) : (s.setMem m).run = s.run := rfl
@[simp] theorem State.setMem_screen (m : Memory) : (s.setMem m).screen = s.screen := rfl
@[simp] theorem State.setMem_keys (m : Memory) : (s.setMem m).keys = s.keys := rfl
@[simp] theorem State.setMem_lastKey (m : Memory) : (s.setMem m).lastKey = s.lastKey := rfl
@[simp] theorem State.setMem_mem (m : Memory) : (s.setMem m).mem = m := rfl
@[simp] theorem State.setMem_draw (m : Memory) : (s.setMem m).draw = s.draw := rfl
@[simp] theorem State.setMem_draws (m : Memory) : (s.setMem m).draws = s.draws := rfl
@[simp] theorem State.setMem_events (m : Memory) : (s.setMem m).events = s.events := rfl
@[simp] theorem State.setMem_schedule (m : Memory) : (s.setMem m).schedule = s.schedule := rfl
@[simp] theorem State.setMem_loadOpen (m : Memory) : (s.setMem m).loadOpen = s.loadOpen := rfl
@[simp] theorem State.setMem_reg (m : Memory) (q : Reg) : (s.setMem m).reg q = s.reg q := rfl
@[simp] theorem State.setMem_stackAt (m : Memory) (j : Fin 16) : (s.setMem m).stackAt j = s.stackAt j := rfl
@[simp] theorem State.setMem_key (m : Memory) (j : KeyIndex) : (s.setMem m).key j = s.key j := rfl
@[simp] theorem State.setMem_live (m : Memory) : (s.setMem m).live = s.live := rfl
@[simp] theorem State.setMem_dataAddr (m : Memory) : (s.setMem m).dataAddr = s.dataAddr := rfl
@[simp] theorem State.setMem_nextDraw (m : Memory) : (s.setMem m).nextDraw = s.nextDraw := rfl

@[simp] theorem State.setDraw_v (b : Bool) : (s.setDraw b).v = s.v := rfl
@[simp] theorem State.setDraw_i (b : Bool) : (s.setDraw b).i = s.i := rfl
@[simp] theorem State.setDraw_pc (b : Bool) : (s.setDraw b).pc = s.pc := rfl
@[simp] theorem State.setDraw_sp (b : Bool) : (s.setDraw b).sp = s.sp := rfl
@[simp] theorem State.setDraw_stack (b : Bool) : (s.setDraw b).stack = s.stack := rfl
@[simp] theorem State.setDraw_dt (b : Bool) : (s.setDraw b).dt = s.dt := rfl
@[simp] theorem State.setDraw_st (b : Bool) : (s.setDraw b).st = s.st := rfl
@[simp] theorem State.setDraw_run (b : Bool) : (s.setDraw b).run = s.run := rfl
@[simp] theorem State.setDraw_screen (b : Bool) : (s.setDraw b).screen = s.screen := rfl
@[simp] theorem State.setDraw_keys (b : Bool) : (s.setDraw b).keys = s.keys := rfl
@[simp] theorem State.setDraw_lastKey (b : Bool) : (s.setDraw b).lastKey = s.lastKey := rfl
@[simp] theorem State.setDraw_mem (b : Bool) : (s.setDraw b).mem = s.mem := rfl
@[simp] theorem State.setDraw_draw (b : Bool) : (s.setDraw b).draw = b := rfl
@[simp] theorem State.setDraw_draws (b : Bool) : (s.setDraw b).draws = s.draws := rfl
@[simp] theorem State.setDraw_events (b : Bool) : (s.setDraw b).events = s.events := rfl
@[simp] theorem State.setDraw_schedule (b : Bool) : (s.setDraw b).schedule = s.schedule := rfl
@[simp] theorem State.setDraw_loadOpen (b : Bool) : (s.setDraw b).loadOpen = s.loadOpen := rfl
@[simp] theorem State.setDraw_reg (b : Bool) (q : Reg) : (s.setDraw b).reg q = s.reg q := rfl
@[simp] theorem State.setDraw_stackAt (b : Bool) (j : Fin 16) : (s.setDraw b).stackAt j = s.stackAt j := rfl
@[simp] theorem State.setDraw_key (b : Bool) (j : KeyIndex) : (s.setDraw b).key j = s.key j := rfl
@[simp] theorem State.setDraw_live (b : Bool) : (s.setDraw b).live = s.live := rfl
@[simp] theorem State.setDraw_dataAddr (b : Bool) : (s.setDraw b).dataAddr = s.dataAddr := rfl
@[simp] theorem State.setDraw_nextDraw (b : Bool) : (s.setDraw b).nextDraw = s.nextDraw := rfl

@[simp] theorem State.emit_v (e : Event) : (s.emit e).v = s.v := rfl
@[simp] theorem State.emit_i (e : Event) : (s.emit e).i = s.i := rfl
@[simp] theorem State.emit_pc (e : Event) : (s.emit e).pc = s.pc := rfl
@[simp] theorem State.emit_sp (e : Event) : (s.emit e).sp = s.sp := rfl
@[simp] theorem State.emit_stack (e : Event) : (s.emit e).stack = s.stack := rfl
@[simp] theorem State.emit_dt (e : Event) : (s.emit e).dt = s.dt := rfl
@[simp] theorem State.emit_st (e : Event) : (s.emit e).st = s.st := rfl
@[simp] theorem State.emit_run (e : Event) : (s.emit e).run = s.run := rfl
@[simp] theorem State.emit_screen (e : Event) : (s.emit e).screen = s.screen := rfl
@[simp] theorem State.emit_keys (e : Event) : (s.emit e).keys = s.keys := rfl
@[simp] theorem State.emit_lastKey (e : Event) : (s.emit e).lastKey = s.lastKey := rfl
@[simp] theorem State.emit_mem (e : Event) : (s.emit e).mem = s.mem := rfl
@[simp] theorem State.emit_draw (e : Event) : (s.emit e).draw = s.draw := rfl
@[simp] theorem State.emit_draws (e : Event) : (s.emit e).draws = s.draws := rfl
@[simp] theorem State.emit_events (e : Event) : (s.emit e).events = s.events ++ [e] := rfl
@[simp] theorem State.emit_schedule (e : Event) : (s.emit e).schedule = s.schedule := rfl
@[simp] theorem State.emit_loadOpen (e : Event) : (s.emit e).loadOpen = s.loadOpen := rfl
@[simp] theorem State.emit_reg (e : Event) (q : Reg) : (s.emit e).reg q = s.reg q := rfl
@[simp] theorem State.emit_stackAt (e : Event) (j : Fin 16) : (s.emit e).stackAt j = s.stackAt j := rfl
@[simp] theorem State.emit_key (e : Event) (j : KeyIndex) : (s.emit e).key j = s.key j := rfl
@[simp] theorem State.emit_live (e : Event) : (s.emit e).live = s.live := rfl
@[simp] theorem State.emit_dataAddr (e : Event) : (s.emit e).dataAddr = s.dataAddr := rfl
@[simp] theorem State.emit_nextDraw (e : Event) : (s.emit e).nextDraw = s.nextDraw := rfl

@[simp] theorem State.countDraw_v : (s.countDraw).v = s.v := rfl
@[simp] theorem State.countDraw_i : (s.countDraw).i = s.i := rfl
@[simp] theorem State.countDraw_pc : (s.countDraw).pc = s.pc := rfl
@[simp] theorem State.countDraw_sp : (s.countDraw).sp = s.sp := rfl
@[simp] theorem State.countDraw_stack : (s.countDraw).stack = s.stack := rfl
@[simp] theorem State.countDraw_dt : (s.countDraw).dt = s.dt := rfl
@[simp] theorem State.countDraw_st : (s.countDraw).st = s.st := rfl
@[simp] theorem State.countDraw_run : (s.countDraw).run = s.run := rfl
@[simp] theorem State.countDraw_screen : (s.countDraw).screen = s.screen := rfl
@[simp] theorem State.countDraw_keys : (s.countDraw).keys = s.keys := rfl
@[simp] theorem State.countDraw_lastKey : (s.countDraw).lastKey = s.lastKey := rfl
@[simp] theorem State.countDraw_mem : (s.countDraw).mem = s.mem := rfl
@[simp] theorem State.countDraw_draw : (s.countDraw).draw = s.draw := rfl
@[simp] theorem State.countDraw_draws : (s.countDraw).draws = s.draws + 1 := rfl
@[simp] theorem State.countDraw_events : (s.countDraw).events = s.events := rfl
@[simp] theorem State.countDraw_schedule : (s.countDraw).schedule = s.schedule := rfl
@[simp] theorem State.countDraw_loadOpen : (s.countDraw).loadOpen = s.loadOpen := rfl
@[simp] theorem State.countDraw_reg (q : Reg) : (s.countDraw).reg q = s.reg q := rfl
@[simp] theorem State.countDraw_stackAt (j : Fin 16) : (s.countDraw).stackAt j = s.stackAt j := rfl
@[simp] theorem State.countDraw_key (j : KeyIndex) : (s.countDraw).key j = s.key j := rfl
@[simp] theorem State.countDraw_live : (s.countDraw).live = s.live := rfl
@[simp] theorem State.countDraw_dataAddr : (s.countDraw).dataAddr = s.dataAddr := rfl

@[simp] theorem State.setSchedule_v (l : List Action) : (s.setSchedule l).v = s.v := rfl
@[simp] theorem State.setSchedule_i (l : List Action) : (s.setSchedule l).i = s.i := rfl
@[simp] theorem State.setSchedule_pc (l : List Action) : (s.setSchedule l).pc = s.pc := rfl
@[simp] theorem State.setSchedule_sp (l : List Action) : (s.setSchedule l).sp = s.sp := rfl
@[simp] theorem State.setSchedule_stack (l : List Action) : (s.setSchedule l).stack = s.stack := rfl
@[simp] theorem State.setSchedule_dt (l : List Action) : (s.setSchedule l).dt = s.dt := rfl
@[simp] theorem State.setSchedule_st (l : List Action) : (s.setSchedule l).st = s.st := rfl
@[simp] theorem State.setSchedule_run (l : List Action) : (s.setSchedule l).run = s.run := rfl
@[simp] theorem State.setSchedule_screen (l : List Action) : (s.setSchedule l).screen = s.screen := rfl
@[simp] theorem State.setSchedule_keys (l : List Action) : (s.setSchedule l).keys = s.keys := rfl
@[simp] theorem State.setSchedule_lastKey (l : List Action) : (s.setSchedule l).lastKey = s.lastKey := rfl
@[simp] theorem State.setSchedule_mem (l : List Action) : (s.setSchedule l).mem = s.mem := rfl
@[simp] theorem State.setSchedule_draw (l : List Action) : (s.setSchedule l).draw = s.draw := rfl
@[simp] theorem State.setSchedule_draws (l : List Action) : (s.setSchedule l).draws = s.draws := rfl
@[simp] theorem State.setSchedule_events (l : List Action) : (s.setSchedule l).events = s.events := rfl
@[simp] theorem State.setSchedule_schedule (l : List Action) : (s.setSchedule l).schedule = l := rfl
@[simp] theorem State.setSchedule_loadOpen (l : List Action) : (s.setSchedule l).loadOpen = s.loadOpen := rfl
@[simp] theorem State.setSchedule_reg (l : List Action) (q : Reg) : (s.setSchedule l).reg q = s.reg q := rfl
@[simp] theorem State.setSchedule_stackAt (l : List Action) (j : Fin 16) : (s.setSchedule l).stackAt j = s.stackAt j := rfl
@[simp] theorem State.setSchedule_key (l : List Action) (j : KeyIndex) : (s.setSchedule l).key j = s.key j := rfl
@[simp] theorem State.setSchedule_live (l : List Action) : (s.setSchedule l).live = s.live := rfl
@[simp] theorem State.setSchedule_dataAddr (l : List Action) : (s.setSchedule l).dataAddr = s.dataAddr := rfl
@[simp] theorem State.setSchedule_nextDraw (l : List Action) : (s.setSchedule l).nextDraw = s.nextDraw := rfl

@[simp] theorem State.closeLoad_v : (s.closeLoad).v = s.v := rfl
@[simp] theorem State.closeLoad_i : (s.closeLoad).i = s.i := rfl
@[simp] theorem State.closeLoad_pc : (s.closeLoad).pc = s.pc := rfl
@[simp] theorem State.closeLoad_sp : (s.closeLoad).sp = s.sp := rfl
@[simp] theorem State.closeLoad_stack : (s.closeLoad).stack = s.stack := rfl
@[simp] theorem State.closeLoad_dt : (s.closeLoad).dt = s.dt := rfl
@[simp] theorem State.closeLoad_st : (s.closeLoad).st = s.st := rfl
@[simp] theorem State.closeLoad_run : (s.closeLoad).run = s.run := rfl
@[simp] theorem State.closeLoad_screen : (s.closeLoad).screen = s.screen := rfl
@[simp] theorem State.closeLoad_keys : (s.closeLoad).keys = s.keys := rfl
@[simp] theorem State.closeLoad_lastKey : (s.closeLoad).lastKey = s.lastKey := rfl
@[simp] theorem State.closeLoad_mem : (s.closeLoad).mem = s.mem := rfl
@[simp] theorem State.closeLoad_draw : (s.closeLoad).draw = s.draw := rfl
@[simp] theorem State.closeLoad_draws : (s.closeLoad).draws = s.draws := rfl
@[simp] theorem State.closeLoad_events : (s.closeLoad).events = s.events := rfl
@[simp] theorem State.closeLoad_schedule : (s.closeLoad).schedule = s.schedule := rfl
@[simp] theorem State.closeLoad_loadOpen : (s.closeLoad).loadOpen = false := rfl
@[simp] theorem State.closeLoad_reg (q : Reg) : (s.closeLoad).reg q = s.reg q := rfl
@[simp] theorem State.closeLoad_stackAt (j : Fin 16) : (s.closeLoad).stackAt j = s.stackAt j := rfl
@[simp] theorem State.closeLoad_key (j : KeyIndex) : (s.closeLoad).key j = s.key j := rfl
@[simp] theorem State.closeLoad_live : (s.closeLoad).live = s.live := rfl
@[simp] theorem State.closeLoad_dataAddr : (s.closeLoad).dataAddr = s.dataAddr := rfl
@[simp] theorem State.closeLoad_nextDraw : (s.closeLoad).nextDraw = s.nextDraw := rfl

@[simp] theorem State.push_v (a : Word) : (s.push a).v = s.v := rfl
@[simp] theorem State.push_i (a : Word) : (s.push a).i = s.i := rfl
@[simp] theorem State.push_pc (a : Word) : (s.push a).pc = s.pc := rfl
@[simp] theorem State.push_sp (a : Word) : (s.push a).sp = spUp s.sp := rfl
@[simp] theorem State.push_stack (a : Word) : (s.push a).stack = s.stack.set (pushSlot s.sp) a := rfl
@[simp] theorem State.push_dt (a : Word) : (s.push a).dt = s.dt := rfl
@[simp] theorem State.push_st (a : Word) : (s.push a).st = s.st := rfl
@[simp] theorem State.push_run (a : Word) : (s.push a).run = s.run := rfl
@[simp] theorem State.push_screen (a : Word) : (s.push a).screen = s.screen := rfl
@[simp] theorem State.push_keys (a : Word) : (s.push a).keys = s.keys := rfl
@[simp] theorem State.push_lastKey (a : Word) : (s.push a).lastKey = s.lastKey := rfl
@[simp] theorem State.push_mem (a : Word) : (s.push a).mem = s.mem := rfl
@[simp] theorem State.push_draw (a : Word) : (s.push a).draw = s.draw := rfl
@[simp] theorem State.push_draws (a : Word) : (s.push a).draws = s.draws := rfl
@[simp] theorem State.push_events (a : Word) : (s.push a).events = s.events := rfl
@[simp] theorem State.push_schedule (a : Word) : (s.push a).schedule = s.schedule := rfl
@[simp] theorem State.push_loadOpen (a : Word) : (s.push a).loadOpen = s.loadOpen := rfl
@[simp] theorem State.push_reg (a : Word) (q : Reg) : (s.push a).reg q = s.reg q := rfl
@[simp] theorem State.push_key (a : Word) (j : KeyIndex) : (s.push a).key j = s.key j := rfl
@[simp] theorem State.push_live (a : Word) : (s.push a).live = s.live := rfl
@[simp] theorem State.push_dataAddr (a : Word) : (s.push a).dataAddr = s.dataAddr := rfl
@[simp] theorem State.push_nextDraw (a : Word) : (s.push a).nextDraw = s.nextDraw := rfl

@[simp] theorem State.pop_v : (s.pop).v = s.v := rfl
@[simp] theorem State.pop_i : (s.pop).i = s.i := rfl
@[simp] theorem State.pop_pc : (s.pop).pc = s.pc := rfl
@[simp] theorem State.pop_sp : (s.pop).sp = spDown s.sp := rfl
@[simp] theorem State.pop_stack : (s.pop).stack = s.stack := rfl
@[simp] theorem State.pop_dt : (s.pop).dt = s.dt := rfl
@[simp] theorem State.pop_st : (s.pop).st = s.st := rfl
@[simp] theorem State.pop_run : (s.pop).run = s.run := rfl
@[simp] theorem State.pop_screen : (s.pop).screen = s.screen := rfl
@[simp] theorem State.pop_keys : (s.pop).keys = s.keys := rfl
@[simp] theorem State.pop_lastKey : (s.pop).lastKey = s.lastKey := rfl
@[simp] theorem State.pop_mem : (s.pop).mem = s.mem := rfl
@[simp] theorem State.pop_draw : (s.pop).draw = s.draw := rfl
@[simp] theorem State.pop_draws : (s.pop).draws = s.draws := rfl
@[simp] theorem State.pop_events : (s.pop).events = s.events := rfl
@[simp] theorem State.pop_schedule : (s.pop).schedule = s.schedule := rfl
@[simp] theorem State.pop_loadOpen : (s.pop).loadOpen = s.loadOpen := rfl
@[simp] theorem State.pop_reg (q : Reg) : (s.pop).reg q = s.reg q := rfl
@[simp] theorem State.pop_stackAt (j : Fin 16) : (s.pop).stackAt j = s.stackAt j := rfl
@[simp] theorem State.pop_key (j : KeyIndex) : (s.pop).key j = s.key j := rfl
@[simp] theorem State.pop_live : (s.pop).live = s.live := rfl
@[simp] theorem State.pop_dataAddr : (s.pop).dataAddr = s.dataAddr := rfl
@[simp] theorem State.pop_nextDraw : (s.pop).nextDraw = s.nextDraw := rfl

@[simp] theorem State.advance_v : (s.advance).v = s.v := rfl
@[simp] theorem State.advance_i : (s.advance).i = s.i := rfl
@[simp] theorem State.advance_pc : (s.advance).pc = s.pc + 2 := rfl
@[simp] theorem State.advance_sp : (s.advance).sp = s.sp := rfl
@[simp] theorem State.advance_stack : (s.advance).stack = s.stack := rfl
@[simp] theorem State.advance_dt : (s.advance).dt = s.dt := rfl
@[simp] theorem State.advance_st : (s.advance).st = s.st := rfl
@[simp] theorem State.advance_run : (s.advance).run = s.run := rfl
@[simp] theorem State.advance_screen : (s.advance).screen = s.screen := rfl
@[simp] theorem State.advance_keys : (s.advance).keys = s.keys := rfl
@[simp] theorem State.advance_lastKey : (s.advance).lastKey = s.lastKey := rfl
@[simp] theorem State.advance_mem : (s.advance).mem = s.mem := rfl
@[simp] theorem State.advance_draw : (s.advance).draw = false := rfl
@[simp] theorem State.advance_draws : (s.advance).draws = s.draws := rfl
@[simp] theorem State.advance_events : (s.advance).events = s.events := rfl
@[simp] theorem State.advance_schedule : (s.advance).schedule = s.schedule := rfl
@[simp] theorem State.advance_loadOpen : (s.advance).loadOpen = s.loadOpen := rfl
@[simp] theorem State.advance_reg (q : Reg) : (s.advance).reg q = s.reg q := rfl
@[simp] theorem State.advance_stackAt (j : Fin 16) : (s.advance).stackAt j = s.stackAt j := rfl
@[simp] theorem State.advance_key (j : KeyIndex) : (s.advance).key j = s.key j := rfl
@[simp] theorem State.advance_live : (s.advance).live = s.live := rfl
@[simp] theorem State.advance_dataAddr : (s.advance).dataAddr = s.dataAddr := rfl
@[simp] theorem State.advance_nextDraw : (s.advance).nextDraw = s.nextDraw := rfl

@[simp] theorem State.wrapPc_v : (s.wrapPc).v = s.v := rfl
@[simp] theorem State.wrapPc_i : (s.wrapPc).i = s.i := rfl
@[simp] theorem State.wrapPc_pc : (s.wrapPc).pc = wrapAddr s.pc := rfl
@[simp] theorem State.wrapPc_sp : (s.wrapPc).sp = s.sp := rfl
@[simp] theorem State.wrapPc_stack : (s.wrapPc).stack = s.stack := rfl
@[simp] theorem State.wrapPc_dt : (s.wrapPc).dt = s.dt := rfl
@[simp] theorem State.wrapPc_st : (s.wrapPc).st = s.st := rfl
@[simp] theorem State.wrapPc_run : (s.wrapPc).run = s.run := rfl
@[simp] theorem State.wrapPc_screen : (s.wrapPc).screen = s.screen := rfl
@[simp] theorem State.wrapPc_keys : (s.wrapPc).keys = s.keys := rfl
@[simp] theorem State.wrapPc_lastKey : (s.wrapPc).lastKey = s.lastKey := rfl
@[simp] theorem State.wrapPc_mem : (s.wrapPc).mem = s.mem := rfl
@[simp] theorem State.wrapPc_draw : (s.wrapPc).draw = s.draw := rfl
@[simp] theorem State.wrapPc_draws : (s.wrapPc).draws = s.draws := rfl
@[simp] theorem State.wrapPc_events : (s.wrapPc).events = s.events := rfl
@[simp] theorem State.wrapPc_schedule : (s.wrapPc).schedule = s.schedule := rfl
@[simp] theorem State.wrapPc_loadOpen : (s.wrapPc).loadOpen = s.loadOpen := rfl
@[simp] theorem State.wrapPc_reg (q : Reg) : (s.wrapPc).reg q = s.reg q := rfl
@[simp] theorem State.wrapPc_stackAt (j : Fin 16) : (s.wrapPc).stackAt j = s.stackAt j := rfl
@[simp] theorem State.wrapPc_key (j : KeyIndex) : (s.wrapPc).key j = s.key j := rfl
@[simp] theorem State.wrapPc_live : (s.wrapPc).live = s.live := rfl
@[simp] theorem State.wrapPc_dataAddr : (s.wrapPc).dataAddr = s.dataAddr := rfl
@[simp] theorem State.wrapPc_nextDraw : (s.wrapPc).nextDraw = s.nextDraw := rfl

end FieldsOfUpdates

section ReadsOfWrites

variable (s : State)

@[simp] theorem State.setI_dataAddr (a : Word) : (s.setI a).dataAddr = a.toNat := rfl

/-- A register read after a register write: the written value at that register, the old one elsewhere. -/
theorem State.reg_setReg (x r : Reg) (b : Byte) :
    (s.setReg x b).reg r = if r = x then b else s.reg r := by
  simp only [State.reg, State.setReg, Fin.getElem_fin, Vector.getElem_set]
  by_cases h : r = x
  · subst h; simp
  · have : (x : Nat) ≠ r := fun e => h (Fin.ext e.symm)
    simp [h, this]

@[simp] theorem State.reg_setReg_same (x : Reg) (b : Byte) : (s.setReg x b).reg x = b := by
  simp [State.reg_setReg]

theorem State.reg_setReg_other {x r : Reg} (h : r ≠ x) (b : Byte) :
    (s.setReg x b).reg r = s.reg r := by
  simp [State.reg_setReg, h]

/-- A register read after a result and a flag: the flag at VF, the result at `x` unless `x` is VF. -/
theorem State.reg_setRegThenFlag (x r : Reg) (b f : Byte) :
    (s.setRegThenFlag x b f).reg r = if r = vf then f else if r = x then b else s.reg r := by
  simp [State.setRegThenFlag, State.reg_setReg]

/-- A key read after a key write. -/
theorem State.key_setKey (k j : KeyIndex) (b : Bool) :
    (s.setKey k b).key j = if j = k then b else s.key j := by
  simp only [State.key, State.setKey, Fin.getElem_fin, Vector.getElem_set]
  by_cases h : j = k
  · subst h; simp
  · have : (k : Nat) ≠ j := fun e => h (Fin.ext e.symm)
    simp [h, this]

/-- A stack entry read after a push. -/
theorem State.stackAt_push (a : Word) (j : Fin 16) :
    (s.push a).stackAt j = if j = pushSlot s.sp then a else s.stackAt j := by
  simp only [State.stackAt, State.push, Fin.getElem_fin, Vector.getElem_set]
  by_cases h : j = pushSlot s.sp
  · subst h; simp
  · have : (pushSlot s.sp : Nat) ≠ j := fun e => h (Fin.ext e.symm)
    simp [h, this]

/-- A register read after FX65's transfer. -/
theorem State.reg_regsFromMem (x r : Reg) :
    (s.setV (s.regsFromMem x)).reg r =
      if r.val ≤ x.val then s.mem.read (s.dataAddr + r.val) else s.reg r := by
  simp [State.reg, State.setV, State.regsFromMem, State.dataAddr]

end ReadsOfWrites

section CompoundUpdates

variable (s : State)

theorem spUp_val (k : Fin 17) (h : k.val < 16) : (spUp k).val = k.val + 1 := by
  simp only [spUp]; omega

theorem spDown_val (k : Fin 17) : (spDown k).val = k.val - 1 := rfl

theorem pushSlot_val (k : Fin 17) (h : k.val < 16) : (pushSlot k).val = k.val := by
  simp only [pushSlot]; omega

theorem popSlot_val (k : Fin 17) : (popSlot k).val = k.val - 1 := rfl

/-- Decrementing after an increment gives the old count back. -/
theorem spDown_spUp (k : Fin 17) (h : k.val < 16) : spDown (spUp k) = k := by
  apply Fin.ext; rw [spDown_val, spUp_val k h]; omega

/-- The entry popped after a push is the one pushed. -/
theorem State.popped_push (a : Word) (h : s.sp.val < 16) : (s.push a).popped = a := by
  have : popSlot (spUp s.sp) = pushSlot s.sp := by
    apply Fin.ext; rw [popSlot_val, spUp_val _ h, pushSlot_val _ h]; omega
  simp only [State.popped, State.push_sp, this, State.stackAt_push, if_true]

@[simp] theorem wrapAddr_toNat (a : Word) : (wrapAddr a).toNat = a.toNat % 4096 := by
  simp only [wrapAddr, Config.memSize, BitVec.toNat_ofNat]; omega

/-- Every update but a run write keeps whether the core is live; in particular, faulted is not live. -/
theorem State.live_iff : s.live = true ↔ ∀ k a, s.run ≠ .faulted k a := by
  unfold State.live; cases s.run <;> simp

end CompoundUpdates

end Sys2Proof.Machine
end

