-- ==== Sys2Proof/Laws/Memory.lean ====
section
/-!
SUPPORT. The laws of memory (20_memory.md R51, R57): what a read gives after a write, that a write leaves
every other address alone, and that every operation keeps the canonical form.
-/

namespace Sys2Proof.Machine

/-! ## Reads after writes -/

theorem Memory.erase_cons_same {a : Nat} {c : Host.Cell} (h : c.1 = a) (m : Memory) :
    Memory.erase (c :: m) a = Memory.erase m a := by
  simp [Memory.erase, h]

theorem Memory.erase_cons_other {a : Nat} {c : Host.Cell} (h : c.1 ≠ a) (m : Memory) :
    Memory.erase (c :: m) a = c :: Memory.erase m a := by
  simp [Memory.erase, h]

theorem Memory.read_erase_same (m : Memory) (a : Nat) :
    (m.erase a).read a = Memory.unlisted a := by
  induction m with
  | nil => rfl
  | cons c m ih =>
    by_cases h : c.1 = a
    · rw [Memory.erase_cons_same h, ih]
    · rw [Memory.erase_cons_other h, Memory.read, if_neg h, ih]

theorem Memory.read_erase_other (m : Memory) {a b : Nat} (hb : b ≠ a) :
    (m.erase a).read b = m.read b := by
  induction m with
  | nil => rfl
  | cons c m ih =>
    by_cases h : c.1 = a
    · have : c.1 ≠ b := fun e => hb (e.symm.trans h)
      rw [Memory.erase_cons_same h, ih, Memory.read, if_neg this]
    · rw [Memory.erase_cons_other h, Memory.read, Memory.read, ih]

theorem Memory.read_insert_other (m : Memory) {a b : Nat} (hb : b ≠ a) (x : Byte) :
    (Memory.insert a x m).read b = m.read b := by
  induction m with
  | nil => simp [Memory.insert, Memory.read, hb.symm]
  | cons c m ih =>
    simp only [Memory.insert]
    split
    · simp [Memory.read, hb.symm]
    · simp [Memory.read, ih]

theorem Memory.read_insert_erase (m : Memory) (a : Nat) (x : Byte) :
    (Memory.insert a x (m.erase a)).read a = x := by
  induction m with
  | nil => simp [Memory.erase, Memory.insert, Memory.read]
  | cons c m ih =>
    by_cases h : c.1 = a
    · rw [Memory.erase_cons_same h, ih]
    · rw [Memory.erase_cons_other h, Memory.insert]
      split
      · simp [Memory.read]
      · rw [Memory.read, if_neg h, ih]

/-- A read after a write to the same address gives the byte written (R57). -/
@[simp] theorem Memory.read_write_same (m : Memory) (a : Nat) (x : Byte) :
    (m.write a x).read a = x := by
  unfold Memory.write
  split
  · next h => rw [Memory.read_erase_same, h]
  · exact Memory.read_insert_erase m a x

/-- A write leaves every other address alone (R57). -/
theorem Memory.read_write_other (m : Memory) {a b : Nat} (hb : b ≠ a) (x : Byte) :
    (m.write a x).read b = m.read b := by
  unfold Memory.write
  split
  · exact Memory.read_erase_other m hb
  · rw [Memory.read_insert_other _ hb, Memory.read_erase_other m hb]

/-- What a range write does to a read: the byte written inside the range, the old byte outside. -/
theorem Memory.read_writeRange (m : Memory) (a : Nat) (bs : List Byte) (b : Nat) :
    (m.writeRange a bs).read b =
      if a ≤ b then (bs[b - a]?).getD (m.read b) else m.read b := by
  induction bs generalizing m a with
  | nil => simp [Memory.writeRange]
  | cons x bs ih =>
    rw [Memory.writeRange, ih]
    by_cases h : b = a
    · subst h; simp
    · rw [Memory.read_write_other m h]
      by_cases h' : a ≤ b
      · have : a + 1 ≤ b := by omega
        have e : b - a = (b - (a + 1)) + 1 := by omega
        simp [h', this, e]
      · have : ¬ a + 1 ≤ b := by omega
        simp [h', this]

theorem Memory.read_writeRange_inside (m : Memory) (a : Nat) (bs : List Byte) (k : Nat)
    (hk : k < bs.length) : (m.writeRange a bs).read (a + k) = bs[k] := by
  simp [Memory.read_writeRange, hk]

theorem Memory.read_writeRange_outside (m : Memory) (a : Nat) (bs : List Byte) (b : Nat)
    (h : b < a ∨ a + bs.length ≤ b) : (m.writeRange a bs).read b = m.read b := by
  rw [Memory.read_writeRange]
  split
  · have : bs[b - a]? = none := by simp; omega
    simp [this]
  · rfl

@[simp] theorem Memory.length_readRange (m : Memory) (a n : Nat) : (m.readRange a n).length = n := by
  induction n generalizing a with
  | zero => rfl
  | succ n ih => simp [Memory.readRange, ih]

/-- Byte `k` of a range read is the byte at `a + k`. -/
theorem Memory.getElem?_readRange (m : Memory) (a n k : Nat) :
    (m.readRange a n)[k]? = if k < n then some (m.read (a + k)) else none := by
  induction n generalizing a k with
  | zero => simp [Memory.readRange]
  | succ n ih =>
    cases k with
    | zero => simp [Memory.readRange]
    | succ k =>
      have e : a + 1 + k = a + (k + 1) := by omega
      simp [Memory.readRange, ih, e]

/-! ## The canonical form -/

/-- The canonical form above a bound, as one recursive predicate. -/
def Memory.wfFrom (lo : Nat) (m : Memory) : Prop :=
  Memory.sortedFrom lo m = true ∧
    ∀ c ∈ m, c.1 < Config.memSize ∧ c.2 ≠ Memory.unlisted c.1

theorem Memory.wf_iff (m : Memory) : m.wf = true ↔ m.wfFrom 0 := by
  simp only [Memory.wf, Memory.wfFrom, Bool.and_eq_true, List.all_eq_true, decide_eq_true_eq,
    bne_iff_ne, ne_eq]

theorem Memory.wfFrom_nil (lo : Nat) : Memory.wfFrom lo [] := by simp [Memory.wfFrom, Memory.sortedFrom]

theorem Memory.wfFrom_cons (lo : Nat) (c : Host.Cell) (m : Memory) :
    Memory.wfFrom lo (c :: m) ↔
      lo ≤ c.1 ∧ c.1 < Config.memSize ∧ c.2 ≠ Memory.unlisted c.1 ∧ Memory.wfFrom (c.1 + 1) m := by
  simp only [Memory.wfFrom, Memory.sortedFrom, Bool.and_eq_true, decide_eq_true_eq, List.mem_cons,
    forall_eq_or_imp]
  tauto

theorem Memory.wfFrom_mono {lo lo' : Nat} (h : lo' ≤ lo) {m : Memory} (hm : m.wfFrom lo) :
    m.wfFrom lo' := by
  cases m with
  | nil => exact Memory.wfFrom_nil _
  | cons c m =>
    rw [Memory.wfFrom_cons] at *
    exact ⟨h.trans hm.1, hm.2⟩

theorem Memory.wfFrom_erase {lo : Nat} {m : Memory} (hm : m.wfFrom lo) (a : Nat) :
    (m.erase a).wfFrom lo := by
  induction m generalizing lo with
  | nil => exact Memory.wfFrom_nil _
  | cons c m ih =>
    rw [Memory.wfFrom_cons] at hm
    obtain ⟨h1, h2, h3, h4⟩ := hm
    by_cases h : c.1 = a
    · rw [Memory.erase_cons_same h]
      exact Memory.wfFrom_mono (by omega) (ih h4)
    · rw [Memory.erase_cons_other h, Memory.wfFrom_cons]
      exact ⟨h1, h2, h3, ih h4⟩

theorem Memory.not_mem_erase (m : Memory) (a : Nat) : ∀ c ∈ m.erase a, c.1 ≠ a := by
  intro c hc
  simpa using (List.mem_filter.mp hc).2

theorem Memory.wfFrom_insert {lo a : Nat} {m : Memory} (hm : m.wfFrom lo) (hlo : lo ≤ a)
    (ha : a < Config.memSize) (hne : ∀ c ∈ m, c.1 ≠ a) {x : Byte} (hx : x ≠ Memory.unlisted a) :
    (Memory.insert a x m).wfFrom lo := by
  induction m generalizing lo with
  | nil =>
    rw [Memory.insert, Memory.wfFrom_cons]
    exact ⟨hlo, ha, hx, Memory.wfFrom_nil _⟩
  | cons c m ih =>
    have hm' := (Memory.wfFrom_cons lo c m).mp hm
    obtain ⟨h1, h2, h3, h4⟩ := hm'
    have hca : c.1 ≠ a := hne c (by simp)
    unfold Memory.insert
    split
    · next hlt =>
      rw [Memory.wfFrom_cons]
      refine ⟨hlo, ha, hx, ?_⟩
      rw [Memory.wfFrom_cons]
      exact ⟨hlt, h2, h3, h4⟩
    · next hge =>
      rw [Memory.wfFrom_cons]
      exact ⟨h1, h2, h3, ih h4 (by omega) (fun d hd => hne d (by simp [hd]))⟩

/-- A byte write inside memory keeps the canonical form. -/
theorem Memory.wf_write {m : Memory} (hm : m.wf = true) {a : Nat} (ha : a < Config.memSize)
    (x : Byte) : (m.write a x).wf = true := by
  rw [Memory.wf_iff] at *
  unfold Memory.write
  split
  · exact Memory.wfFrom_erase hm a
  · next hx =>
    exact Memory.wfFrom_insert (Memory.wfFrom_erase hm a) (Nat.zero_le _) ha
      (Memory.not_mem_erase m a) hx

/-- A range write inside memory keeps the canonical form. -/
theorem Memory.wf_writeRange {m : Memory} (hm : m.wf = true) {a : Nat} {bs : List Byte}
    (ha : a + bs.length ≤ Config.memSize) : (m.writeRange a bs).wf = true := by
  induction bs generalizing m a with
  | nil => exact hm
  | cons x bs ih =>
    simp only [List.length_cons] at ha
    exact ih (Memory.wf_write hm (by omega) x) (by omega)

/-- Below the first listed address, a memory in canonical form reads as its reset contents. -/
theorem Memory.read_below {lo : Nat} {m : Memory} (hm : m.wfFrom lo) {a : Nat} (h : a < lo) :
    m.read a = Memory.unlisted a := by
  induction m generalizing lo with
  | nil => rfl
  | cons c m ih =>
    rw [Memory.wfFrom_cons] at hm
    have : c.1 ≠ a := by omega
    simp only [Memory.read, this, if_false]
    exact ih hm.2.2.2 (by omega)

end Sys2Proof.Machine
end

