-- ==== Sys2Proof/Laws/Screen.lean ====
section
/-!
SUPPORT. What the graphics unit does to a pixel (46_graphics.md R181): `drawSprite` flips exactly the
pixels on which the sprite has a set bit, and its collision bit says whether one of them was lit.
-/

namespace Sys2Proof.Machine

theorem Screen.px_flip (p : Screen) (x x' : Fin 64) (y y' : Fin 32) :
    (p.flip x y).px x' y' = (p.px x' y' ^^ decide (x' = x ∧ y' = y)) := by
  unfold Screen.flip Screen.px
  by_cases hy : y' = y
  · subst hy
    by_cases hx : x' = x
    · subst hx; simp
    · have : (x : Nat) ≠ x' := fun e => hx (Fin.ext e.symm)
      simp [hx, Vector.getElem_set_ne, this]
  · have : (y : Nat) ≠ y' := fun e => hy (Fin.ext e.symm)
    simp [hy, Vector.getElem_set_ne, this]

@[simp] theorem Screen.px_clear (x : Fin 64) (y : Fin 32) : Screen.clear.px x y = false := by
  simp [Screen.clear, Screen.px]

/-- Two screens with the same pixels are the same screen. -/
theorem Screen.ext_px {p q : Screen} (h : ∀ x y, p.px x y = q.px x y) : p = q := by
  apply Vector.ext
  intro y hy
  apply Vector.ext
  intro x hx
  exact h ⟨x, hx⟩ ⟨y, hy⟩

/-- `b` is `a` with the pixels of `F` flipped, and `b` has collided if `a` had or if a flipped pixel was
lit. -/
def flippedBy (F : Fin 64 → Fin 32 → Bool) (a b : Screen × Bool) : Prop :=
  (∀ x y, b.1.px x y = (a.1.px x y ^^ F x y)) ∧
    (b.2 = true ↔ a.2 = true ∨ ∃ x y, F x y = true ∧ a.1.px x y = true)

theorem flippedBy_none (a : Screen × Bool) : flippedBy (fun _ _ => false) a a := by
  simp [flippedBy]

/-- Flipping disjoint sets of pixels one after the other flips both. -/
theorem flippedBy_trans {F G : Fin 64 → Fin 32 → Bool} {a b c : Screen × Bool}
    (hab : flippedBy F a b) (hbc : flippedBy G b c) (hd : ∀ x y, F x y = true → G x y = false) :
    flippedBy (fun x y => F x y || G x y) a c := by
  obtain ⟨ha, ha'⟩ := hab
  obtain ⟨hb, hb'⟩ := hbc
  refine ⟨fun x y => ?_, ?_⟩
  · rw [hb, ha]
    have := hd x y
    cases hF : F x y <;> cases hG : G x y <;> simp_all
  · rw [hb', ha']
    constructor
    · rintro ((h | ⟨x, y, hF, hp⟩) | ⟨x, y, hG, hp⟩)
      · exact .inl h
      · exact .inr ⟨x, y, by simp [hF], hp⟩
      · refine .inr ⟨x, y, by simp [hG], ?_⟩
        rw [ha] at hp
        cases hF : F x y
        · simpa [hF] using hp
        · simp [hd x y hF] at hG
    · rintro (h | ⟨x, y, hFG, hp⟩)
      · exact .inl (.inl h)
      · cases hF : F x y
        · refine .inr ⟨x, y, by simpa [hF] using hFG, ?_⟩
          rw [ha, hF]; simpa using hp
        · exact .inl (.inr ⟨x, y, hF, hp⟩)

theorem flippedBy_congr {F G : Fin 64 → Fin 32 → Bool} {a b : Screen × Bool}
    (h : flippedBy F a b) (hFG : ∀ x y, F x y = G x y) : flippedBy G a b := by
  have : F = G := funext fun x => funext fun y => hFG x y
  exact this ▸ h

/-- One bit flips its own pixel, when it is set and not past the right edge (R181). -/
theorem drawBit_flips (x : Nat) (y : Fin 32) (on : Bool) (a : Screen × Bool) :
    flippedBy (fun x' y' => on && decide (x'.val = x ∧ y' = y)) a (drawBit x y on a) := by
  unfold drawBit
  split
  · next h =>
    cases on
    · simpa using flippedBy_none a
    · refine ⟨fun x' y' => ?_, ?_⟩
      · simp only [if_true, Screen.px_flip, Bool.true_and]
        congr 1
        simp [Fin.ext_iff]
      · simp only [if_true, Bool.or_eq_true, Bool.true_and, decide_eq_true_eq]
        constructor
        · rintro (h1 | h1)
          · exact .inl h1
          · exact .inr ⟨⟨x, h⟩, y, ⟨rfl, rfl⟩, h1⟩
        · rintro (h1 | ⟨x', y', ⟨hx, rfl⟩, h1⟩)
          · exact .inl h1
          · have : x' = ⟨x, h⟩ := Fin.ext hx
            exact .inr (this ▸ h1)
  · next h =>
    refine flippedBy_congr (flippedBy_none a) fun x' y' => ?_
    have : x'.val ≠ x := by omega
    simp [this]

/-- The last `k` bits of a row flip the pixels under its set bits (R181). -/
theorem drawRowFrom_flips (x0 : Nat) (y : Fin 32) (row : Byte) (k : Nat) (hk : k ≤ 8)
    (a : Screen × Bool) :
    flippedBy (fun x' y' => decide (y' = y ∧ x0 + 8 ≤ x'.val + k ∧ x'.val < x0 + 8) &&
      row.getLsbD (7 - (x'.val - x0))) a (drawRowFrom x0 y row k a) := by
  induction k generalizing a with
  | zero =>
    refine flippedBy_congr (flippedBy_none a) fun x' y' => ?_
    have : ¬ (x0 + 8 ≤ x'.val ∧ x'.val < x0 + 8) := by omega
    simp [this]
  | succ k ih =>
    rw [drawRowFrom]
    refine flippedBy_congr (flippedBy_trans (drawBit_flips _ y _ a) (ih (by omega) _) ?_) ?_
    · intro x' y' h
      simp only [Bool.and_eq_true, decide_eq_true_eq] at h
      have : ¬ (x0 + 8 ≤ x'.val + k) := by omega
      simp [this]
    · intro x' y'
      by_cases hy : y' = y
      · subst hy
        by_cases hx : x'.val = x0 + (7 - k)
        · have h1 : ¬ (x0 + 8 ≤ x'.val + k) := by omega
          have h2 : x0 + 8 ≤ x'.val + (k + 1) := by omega
          have h3 : x'.val < x0 + 8 := by omega
          have h4 : 7 - (x'.val - x0) = k := by omega
          rw [h4, decide_eq_true (show x'.val = x0 + (7 - k) ∧ y' = y' from ⟨hx, rfl⟩),
            decide_eq_false (fun h => h1 h.2.1 :
              ¬ (y' = y' ∧ x0 + 8 ≤ x'.val + k ∧ x'.val < x0 + 8)),
            decide_eq_true (⟨rfl, h2, h3⟩ :
              y' = y' ∧ x0 + 8 ≤ x'.val + (k + 1) ∧ x'.val < x0 + 8)]
          simp
        · have h1 : (x0 + 8 ≤ x'.val + k) ↔ (x0 + 8 ≤ x'.val + (k + 1)) := by omega
          simp [h1, hx]
      · simp [hy]

/-- The rows of a sprite flip the pixels under their set bits, none below the bottom edge (R181). -/
theorem drawRows_flips (x0 : Nat) (y0 : Nat) (rows : List Byte) (a : Screen × Bool) :
    flippedBy (fun x' y' => decide (x0 ≤ x'.val ∧ x'.val < x0 + 8 ∧ y0 ≤ y'.val) &&
      ((rows[y'.val - y0]?).getD 0).getLsbD (7 - (x'.val - x0))) a (drawRows x0 y0 rows a) := by
  induction rows generalizing y0 a with
  | nil =>
    refine flippedBy_congr (flippedBy_none a) fun x' y' => ?_
    simp
  | cons row rest ih =>
    rw [drawRows]
    split
    · next h =>
      refine flippedBy_congr
        (flippedBy_trans (drawRowFrom_flips x0 ⟨y0, h⟩ row 8 (le_refl _) a) (ih (y0 + 1) _) ?_) ?_
      · intro x' y' h'
        simp only [Bool.and_eq_true, decide_eq_true_eq, Fin.ext_iff] at h'
        have : ¬ (y0 + 1 ≤ y'.val) := by omega
        simp [this]
      · intro x' y'
        by_cases hy : y'.val = y0
        · have h2 : y' = ⟨y0, h⟩ := Fin.ext hy
          have h3 : x0 + 8 ≤ x'.val + 8 ↔ x0 ≤ x'.val := by omega
          simp [h2, h3]
        · have h2 : y' ≠ ⟨y0, h⟩ := fun e => hy (congrArg Fin.val e)
          by_cases hlt : y0 + 1 ≤ y'.val
          · have e : y'.val - y0 = (y'.val - (y0 + 1)) + 1 := by omega
            have h4 : y0 ≤ y'.val := by omega
            simp [h2, hlt, e, h4]
          · have h4 : ¬ y0 ≤ y'.val := by omega
            simp [h2, hlt, h4]
    · next h =>
      refine flippedBy_congr (flippedBy_none a) fun x' y' => ?_
      have : ¬ y0 ≤ y'.val := by omega
      simp [this]

/-- `DrawSprite` flips exactly the pixels under the sprite's set bits (R181). -/
theorem drawSprite_flips (vx vy : Byte) (rows : List Byte) (p : Screen) :
    flippedBy (spriteBit vx vy rows) (p, false) (drawSprite vx vy rows p) :=
  drawRows_flips _ _ rows (p, false)

/-- A pixel after `DrawSprite`: exclusive-or with the sprite's bit (R181). -/
theorem px_drawSprite (vx vy : Byte) (rows : List Byte) (p : Screen) (x : Fin 64) (y : Fin 32) :
    (drawSprite vx vy rows p).1.px x y = (p.px x y ^^ spriteBit vx vy rows x y) :=
  (drawSprite_flips vx vy rows p).1 x y

/-- The collision bit: some lit pixel was turned off (R181). -/
theorem drawSprite_hit (vx vy : Byte) (rows : List Byte) (p : Screen) :
    (drawSprite vx vy rows p).2 = true ↔
      ∃ x y, spriteBit vx vy rows x y = true ∧ p.px x y = true := by
  simpa using (drawSprite_flips vx vy rows p).2

end Sys2Proof.Machine
end

