-- ==== Sys2Proof/Laws/Ops.lean ====
section
/-!
SUPPORT. One lemma for each shared operation, saying once everything it can do: completing an
instruction, raising a fault, an access at `I`, a skip, the exact 8-bit results, the agents' actions.
-/

namespace Sys2Proof.Machine

/-! ## Completing an instruction and raising a fault -/

/-- `complete` answers exactly one next state. -/
theorem complete_eq (f : State → State) (s t : State) :
    complete f s = .next t ↔ t = (f s.advance).wrapPc := by
  unfold complete
  constructor
  · intro h; injection h with h; exact h.symm
  · rintro rfl; rfl

/-- `raiseFault` answers exactly one next state: `run` and the event, nothing else (R190). -/
theorem raiseFault_eq (k : FaultKind) (a : Word) (s t : State) :
    raiseFault k a s = .next t ↔ t = (s.setRun (.faulted k a)).emit (.fatal k a) := by
  unfold raiseFault
  constructor
  · intro h; injection h with h; exact h.symm
  · rintro rfl; rfl

/-- An access at `I`: the fault of R195 when the span is out of bounds, the effect otherwise. -/
theorem accessAtI_eq (n : Nat) (f : State → State) (s : State) :
    accessAtI n f s =
      if s.i.toNat + n ≤ 4096 then complete f s else raiseFault .memOob s.i s := rfl

/-- A skip moves `pc` by 2 when its condition holds and does nothing otherwise (R120). -/
theorem State.skipIf_eq (s : State) (c : Bool) :
    s.skipIf c = s.setPc (if c then s.pc + 2 else s.pc) := by
  unfold State.skipIf
  cases c <;> rfl

/-- `pc` after a completed instruction that leaves the advanced `pc` alone (R90, R96). -/
theorem advanced_pc_toNat (a : Word) : (wrapAddr (a + 2)).toNat = (a.toNat + 2) % 4096 := by
  rw [wrapAddr_toNat, BitVec.toNat_add, show (2 : Word).toNat = 2 from rfl]
  omega

/-- `pc` after a taken skip (R96, R120). -/
theorem skipped_pc_toNat (a : Word) : (wrapAddr (a + 2 + 2)).toNat = (a.toNat + 4) % 4096 := by
  rw [wrapAddr_toNat, BitVec.toNat_add, BitVec.toNat_add, show (2 : Word).toNat = 2 from rfl]
  omega

/-! ## Operands -/

theorem addrOperand_toNat (nnn : Addr12) : (addrOperand nnn).toNat = nnn.toNat := by
  have := nnn.isLt
  simp only [addrOperand, BitVec.toNat_setWidth]; omega

theorem indirectTarget_toNat (nnn : Addr12) (b : Byte) :
    (indirectTarget nnn b).toNat = nnn.toNat + b.toNat := by
  have := nnn.isLt
  have := b.isLt
  simp only [indirectTarget, BitVec.toNat_add, BitVec.toNat_setWidth]; omega

theorem indexSum_toNat (i : Word) (b : Byte) : (indexSum i b).toNat = (i.toNat + b.toNat) % 4096 := by
  simp only [indexSum, Config.memSize, BitVec.toNat_ofNat]; omega

/-- `FONT_BASE` meets its bound (D11). -/
theorem fontBase_le : fontBase + 80 ≤ 0x200 := by
  have := Config.fontBaseChoice.isLt
  unfold fontBase Config.fontBase; omega

theorem glyphAddr_toNat (d : Fin 16) : (glyphAddr d).toNat = fontBase + 5 * d.val := by
  have := fontBase_le
  simp only [glyphAddr, Config.glyphBytes, BitVec.toNat_ofNat]; omega

theorem sixteenth_eq_some (b : Byte) (k : Fin 16) : sixteenth b = some k ↔ b.toNat = k.val := by
  unfold sixteenth
  split
  · simp [Fin.ext_iff]
  · simp only [reduceCtorEq, false_iff]; omega

theorem sixteenth_eq_none (b : Byte) : sixteenth b = none ↔ b.toNat > 15 := by
  unfold sixteenth
  split <;> simp <;> omega

theorem keyByte_toNat (k : KeyIndex) : (keyByte k).toNat = k.val := by
  simp only [keyByte, BitVec.toNat_ofNat]; omega

@[simp] theorem State.length_regsUpTo (s : State) (x : Reg) : (s.regsUpTo x).length = x.val + 1 := by
  simp only [State.regsUpTo, regCount, List.length_take, Vector.length_toList]; omega

theorem State.getElem?_regsUpTo (s : State) (x : Reg) (k : Fin 16) (h : k.val ≤ x.val) :
    (s.regsUpTo x)[k.val]? = some (s.reg k) := by
  have : k.val < regCount x := by unfold regCount; omega
  simp [State.regsUpTo, State.reg, this]

/-! ## 8-bit results (R130) -/

theorem sumByte_toNat (a b : Byte) : (sumByte a b).toNat = (a.toNat + b.toNat) % 256 := by
  simp only [sumByte, BitVec.toNat_ofNat]; omega

theorem diffByte_toNat (a b : Byte) :
    ((diffByte a b).toNat : Int) = ((a.toNat : Int) - b.toNat) % 256 := by
  unfold diffByte
  rw [BitVec.toNat_ofInt]
  omega

theorem shrByte_toNat (v : Byte) : (shrByte v).toNat = v.toNat / 2 := by
  simp only [shrByte, BitVec.toNat_ofNat]; omega

theorem shlByte_toNat (v : Byte) : (shlByte v).toNat = v.toNat * 2 % 256 := by
  simp only [shlByte, BitVec.toNat_ofNat]; omega

theorem shrFlag_toNat (v : Byte) : (shrFlag v).toNat = v.toNat % 2 := by
  simp only [shrFlag, BitVec.toNat_and]
  exact Nat.and_one_is_mod _

theorem shlFlag_toNat (v : Byte) : (shlFlag v).toNat = v.toNat / 128 := by
  simp only [shlFlag, BitVec.toNat_ushiftRight, Nat.shiftRight_eq_div_pow]

@[simp] theorem length_bcdDigits (b : Byte) : (bcdDigits b).length = 3 := rfl

/-! ## The cycle and the other agents -/

/-- A fetch gives the big-endian word at `pc` exactly when both its bytes are inside memory (R52, R93). -/
theorem State.fetch_eq_some (s : State) (w : Word) :
    s.fetch = some w ↔ s.pc.toNat + 2 ≤ 4096 ∧
      w = wordOfBytes (s.mem.read s.pc.toNat) (s.mem.read (s.pc.toNat + 1)) := by
  unfold State.fetch spanInBounds
  split <;> rename_i h <;> simp [h, eq_comm]

theorem State.fetch_eq_none (s : State) : s.fetch = none ↔ s.pc.toNat + 2 > 4096 := by
  unfold State.fetch spanInBounds Config.memSize
  split <;> simp <;> omega

/-- An action of another agent answers a next state only while the core is live (R97, R200). -/
theorem whileLive_eq_next (f : State → Outcome) (s t : State) :
    whileLive f s = .next t ↔ s.live = true ∧ f s = .next t := by
  unfold whileLive
  cases s.live <;> simp

/-- `reset` answers the block at its reset values, and only while the core is live (R210, R211). -/
theorem hostReset_eq_next (s t : State) :
    hostReset s = .next t ↔ s.live = true ∧ t = s.resetBlock := by
  simp [hostReset, whileLive_eq_next, eq_comm (a := t)]

/-- `load` answers the image written at 0x200, and only in its window and when the image fits (R97, R212). -/
theorem hostLoad_eq_next (rom : List Byte) (s t : State) :
    hostLoad rom s = .next t ↔ s.live = true ∧ s.loadOpen = true ∧ romFits rom ∧
      t = s.setMem (s.mem.writeRange Config.programBase rom) := by
  unfold hostLoad
  rw [whileLive_eq_next]
  by_cases h : s.loadOpen = true <;> by_cases h' : romFits rom <;> simp [h, h', eq_comm (a := t)]

/-- `key_down` answers the key pressed, the latch set and a pending wait ended (R166, R167). -/
theorem hostKeyDown_eq_next (k : KeyIndex) (s t : State) :
    hostKeyDown k s = .next t ↔ s.live = true ∧
      t = ((s.setKey k true).setLastKey (some k)).resolveWait k := by
  simp [hostKeyDown, whileLive_eq_next, eq_comm (a := t)]

/-- `key_up` answers the key released and nothing else (R166). -/
theorem hostKeyUp_eq_next (k : KeyIndex) (s t : State) :
    hostKeyUp k s = .next t ↔ s.live = true ∧ t = s.setKey k false := by
  simp [hostKeyUp, whileLive_eq_next, eq_comm (a := t)]

/-- `tick_dt` answers `DT` down by 1, and only while it is positive (R164). -/
theorem tickDt_eq_next (s t : State) :
    tickDt s = .next t ↔ s.live = true ∧ s.dt ≠ 0 ∧ t = s.setDt (s.dt - 1) := by
  unfold tickDt
  rw [whileLive_eq_next]
  split <;> simp_all [eq_comm (a := t)]

/-- `tick_st` answers `ST` down by 1, with the beep from 1 to 0, and only while it is positive (R164, R165). -/
theorem tickSt_eq_next (s t : State) :
    tickSt s = .next t ↔ s.live = true ∧ s.st ≠ 0 ∧ t = s.beepIfLast.setSt (s.st - 1) := by
  unfold tickSt
  rw [whileLive_eq_next]
  split <;> simp_all [eq_comm (a := t)]

/-- The next step is the first scheduled action, and a core step when none is scheduled (R98). -/
theorem step_eq (s : State) :
    step s = act (s.schedule.headD .cycle) (s.setSchedule s.schedule.tail) := by
  unfold step nextStep
  cases h : s.schedule with
  | nil =>
    have : s.setSchedule [] = s := by rw [← h]; rfl
    simp [act, this]
  | cons a rest => rfl

end Sys2Proof.Machine
end

