-- ==== Sys2Proof/Laws/Exec.lean ====
section
/-!
SUPPORT. How a claim about an instruction is shown: from the effect its meaning completes with, or from
the fault it raises; and that every instruction answers one of the two (40_cycle.md R90, 60_exceptions.md
R190).
-/

namespace Sys2Proof.Machine

/-- The effect an instruction completes with, on the state whose `pc` is `ia + 2`. -/
def effect : Instr → State → State
  | .sys _, t => t
  | .cls, t => (t.setScreen Screen.clear).setDraw true
  | .ret, t => t.pop.setPc t.popped
  | .jp nnn, t => t.setPc (addrOperand nnn)
  | .call nnn, t => (t.push t.pc).setPc (addrOperand nnn)
  | .seImm x kk, t => t.skipIf (t.reg x == kk)
  | .sneImm x kk, t => t.skipIf (t.reg x != kk)
  | .seReg x y, t => t.skipIf (t.reg x == t.reg y)
  | .ldImm x kk, t => t.setReg x kk
  | .addImm x kk, t => t.setReg x (sumByte (t.reg x) kk)
  | .ldReg x y, t => t.setReg x (t.reg y)
  | .orReg x y, t => t.setReg x (t.reg x ||| t.reg y)
  | .andReg x y, t => t.setReg x (t.reg x &&& t.reg y)
  | .xorReg x y, t => t.setReg x (t.reg x ^^^ t.reg y)
  | .addReg x y, t =>
    t.setRegThenFlag x (sumByte (t.reg x) (t.reg y)) (carryFlag (t.reg x) (t.reg y))
  | .subReg x y, t =>
    t.setRegThenFlag x (diffByte (t.reg x) (t.reg y)) (noBorrowFlag (t.reg x) (t.reg y))
  | .shr x _, t => t.setRegThenFlag x (shrByte (t.reg x)) (shrFlag (t.reg x))
  | .subnReg x y, t =>
    t.setRegThenFlag x (diffByte (t.reg y) (t.reg x)) (noBorrowFlag (t.reg y) (t.reg x))
  | .shl x _, t => t.setRegThenFlag x (shlByte (t.reg x)) (shlFlag (t.reg x))
  | .sneReg x y, t => t.skipIf (t.reg x != t.reg y)
  | .ldI nnn, t => t.setI (addrOperand nnn)
  | .jpV0 nnn, t => t.setPc (indirectTarget nnn (t.reg 0))
  | .rnd x kk, t => (t.setReg x (t.nextDraw &&& kk)).countDraw
  | .drw x y n, t => drawEffect x y n t
  | .skp x, t => t.skipIf ((sixteenth (t.reg x)).any fun k => t.key k == true)
  | .sknp x, t => t.skipIf ((sixteenth (t.reg x)).any fun k => t.key k == false)
  | .ldVxDt x, t => t.setReg x t.dt
  | .ldVxK x, t => t.setRun (.awaitingKey x)
  | .ldDtVx x, t => t.setDt (t.reg x)
  | .ldStVx x, t => t.setSt (t.reg x)
  | .addI x, t => t.setI (indexSum t.i (t.reg x))
  | .ldF x, t => t.setI (((sixteenth (t.reg x)).map glyphAddr).getD t.i)
  | .ldB x, t => t.setMem (t.mem.writeRange t.dataAddr (bcdDigits (t.reg x)))
  | .storeRegs x, t => t.setMem (t.mem.writeRange t.dataAddr (t.regsUpTo x))
  | .loadRegs x, t => t.setV (t.regsFromMem x)

/-- What an instruction does, once: no fault is due and it completes with its effect, or exactly one fault
is due and it raises that one (R90, R190, R191). -/
def execForm (i : Instr) (s : State) : Prop :=
  (exec i s = complete (effect i) s ∧ ∀ k a, ¬ faultDueAt i s k a) ∨
    ∃ k a, exec i s = raiseFault k a s ∧ ∀ k' a', faultDueAt i s k' a' ↔ k' = k ∧ a' = a

theorem execForm_of_effect {i : Instr} {s : State} (h : exec i s = complete (effect i) s)
    (hn : ∀ k a, ¬ faultDueAt i s k a) : execForm i s := .inl ⟨h, hn⟩

theorem execForm_accessAtI {i : Instr} {s : State} (n : Nat)
    (he : exec i s = accessAtI n (effect i) s)
    (hd : ∀ k a, faultDueAt i s k a ↔ k = .memOob ∧ a = s.i ∧ s.i.toNat + n > 4096) :
    execForm i s := by
  unfold execForm
  rw [he, accessAtI_eq]
  split
  · next h => exact .inl ⟨rfl, fun k a hk => by have := ((hd k a).mp hk).2.2; omega⟩
  · next h =>
    refine .inr ⟨_, _, rfl, fun k a => (hd k a).trans ?_⟩
    exact ⟨fun hk => ⟨hk.1, hk.2.1⟩, fun hk => ⟨hk.1, hk.2, by omega⟩⟩

theorem execForm_skipOnKey {i : Instr} {s : State} (x : Reg) (b : Bool)
    (he : exec i s = skipOnKey x b s)
    (hf : effect i = fun t => t.skipIf ((sixteenth (t.reg x)).any fun k => t.key k == b))
    (hd : ∀ k a, faultDueAt i s k a ↔ k = .operandRange ∧ a = s.pc ∧ (s.reg x).toNat > 15) :
    execForm i s := by
  unfold execForm
  rw [he]
  cases hs : sixteenth (s.reg x) with
  | some d =>
    refine .inl ⟨?_, fun k a hk => ?_⟩
    · simp [skipOnKey, hs, hf, complete]
    · have h1 := ((hd k a).mp hk).2.2
      rw [← sixteenth_eq_none, hs] at h1
      exact nomatch h1
  | none =>
    refine .inr ⟨.operandRange, s.pc, by simp [skipOnKey, hs], fun k a => (hd k a).trans ?_⟩
    have h1 := (sixteenth_eq_none _).mp hs
    exact ⟨fun hk => ⟨hk.1, hk.2.1⟩, fun hk => ⟨hk.1, hk.2, h1⟩⟩

/-- Every instruction, in every state, has the form `execForm`. -/
theorem exec_form (i : Instr) (s : State) : execForm i s := by
  cases i with
  | ret =>
    by_cases h : s.sp = 0
    · refine .inr ⟨.stackUnderflow, s.pc, if_pos h, fun k a => ?_⟩
      simp [faultDueAt, h]
    · refine .inl ⟨if_neg h, fun k a hk => h (Fin.ext hk.2.2)⟩
  | call nnn =>
    by_cases h : s.sp = 16
    · refine .inr ⟨.stackOverflow, s.pc, if_pos h, fun k a => ?_⟩
      simp [faultDueAt, h]
    · refine .inl ⟨if_neg h, fun k a hk => h (Fin.ext hk.2.2)⟩
  | skp x => exact execForm_skipOnKey x true rfl rfl fun _ _ => Iff.rfl
  | sknp x => exact execForm_skipOnKey x false rfl rfl fun _ _ => Iff.rfl
  | ldF x =>
    unfold execForm
    cases hs : sixteenth (s.reg x) with
    | some d =>
      refine .inl ⟨?_, fun k a hk => ?_⟩
      · simp [exec, execLdF, hs, complete, effect]
      · have h1 : (s.reg x).toNat > 15 := hk.2.2
        rw [← sixteenth_eq_none, hs] at h1
        exact nomatch h1
    | none =>
      have h1 := (sixteenth_eq_none _).mp hs
      refine .inr ⟨.operandRange, s.pc, by simp [exec, execLdF, hs], fun k a => ?_⟩
      exact ⟨fun hk => ⟨hk.1, hk.2.1⟩, fun hk => ⟨hk.1, hk.2, h1⟩⟩
  | drw x y n => exact execForm_accessAtI n.toNat rfl fun _ _ => Iff.rfl
  | ldB x => exact execForm_accessAtI 3 rfl fun _ _ => Iff.rfl
  | storeRegs x => exact execForm_accessAtI (x.val + 1) rfl fun _ _ => Iff.rfl
  | loadRegs x => exact execForm_accessAtI (x.val + 1) rfl fun _ _ => Iff.rfl
  | _ => exact execForm_of_effect rfl fun _ _ h => h

/-- When no fault is due, the instruction completes with its effect. -/
theorem exec_eq_effect {i : Instr} {s : State} (hn : ∀ k a, ¬ faultDueAt i s k a) :
    exec i s = complete (effect i) s := by
  rcases exec_form i s with ⟨h, -⟩ | ⟨k, a, -, hd⟩
  · exact h
  · exact absurd ((hd k a).mpr ⟨rfl, rfl⟩) (hn k a)

/-- When a fault is due, the instruction raises it. -/
theorem exec_eq_raise {i : Instr} {s : State} {k : FaultKind} {a : Word}
    (h : faultDueAt i s k a) : exec i s = raiseFault k a s := by
  rcases exec_form i s with ⟨-, hn⟩ | ⟨k', a', he, hd⟩
  · exact absurd h (hn k a)
  · obtain ⟨rfl, rfl⟩ := (hd k a).mp h
    exact he

/-- When a fault is due, the instruction faults and changes nothing else. -/
theorem faults_of {i : Instr} {s : State} {k : FaultKind} {a : Word}
    (h : faultDueAt i s k a) : faults i s k a := by
  refine ⟨_, exec_eq_raise h, rfl, rfl, ?_⟩
  intro p hp
  cases p <;> first | rfl | exact absurd (by simp) hp

/-- When no fault is due, the instruction completes with what its effect does to the advanced state. -/
theorem completes_of {i : Instr} {s : State} {target : Nat} {display : Bool}
    {P : Part → Prop} {post : State → Prop} (hn : ∀ k a, ¬ faultDueAt i s k a)
    (hpc : (effect i s.advance).pc.toNat % 4096 = target % 4096)
    (hd : (effect i s.advance).draw = display)
    (hf : ∀ p, p ≠ .pc → p ≠ .draw → ¬ P p → p.same s (effect i s.advance))
    (hp : post (effect i s.advance).wrapPc) : completes i s target display P post := by
  refine ⟨(effect i s.advance).wrapPc, ?_, by simpa using hpc, by simpa using hd, ?_, hp⟩
  · rw [exec_eq_effect hn]; rfl
  · intro p h
    have h1 : p ≠ .pc := fun e => h (.inl e)
    have h2 : p ≠ .draw := fun e => h (.inr (.inl e))
    have h3 : ¬ P p := fun e => h (.inr (.inr e))
    have := hf p h1 h2 h3
    cases p <;> first | exact absurd rfl h1 | exact absurd rfl h2 | exact this

/-- The same for an effect that leaves the advanced `pc` alone. -/
theorem completes_seq {i : Instr} {s : State} {display : Bool}
    {P : Part → Prop} {post : State → Prop} (hn : ∀ k a, ¬ faultDueAt i s k a)
    (hpc : (effect i s.advance).pc = s.pc + 2) (hd : (effect i s.advance).draw = display)
    (hf : ∀ p, p ≠ .pc → p ≠ .draw → ¬ P p → p.same s (effect i s.advance))
    (hp : post (effect i s.advance).wrapPc) : completes i s s.nextAddr display P post :=
  completes_of hn (by rw [hpc, ← wrapAddr_toNat, advanced_pc_toNat]; rfl) hd hf hp

/-- Every instruction, in every state, answers a next state. -/
theorem exec_answers_next (i : Instr) (s : State) : ∃ t, exec i s = .next t := by
  rcases exec_form i s with ⟨h, -⟩ | ⟨k, a, h, -⟩
  · exact ⟨_, h⟩
  · exact ⟨_, h⟩

/-- The next state of an instruction: its effect, advanced and wrapped, or the fault. -/
theorem exec_next {i : Instr} {s t : State} (h : exec i s = .next t) :
    (t = (effect i s.advance).wrapPc ∧ ∀ k a, ¬ faultDueAt i s k a) ∨
      ∃ k a, t = (s.setRun (.faulted k a)).emit (.fatal k a) ∧ faultDueAt i s k a := by
  rcases exec_form i s with ⟨he, hn⟩ | ⟨k, a, he, hd⟩
  · exact .inl ⟨(complete_eq _ _ _).mp (he.symm.trans h), hn⟩
  · exact .inr ⟨k, a, (raiseFault_eq _ _ _ _).mp (he.symm.trans h), (hd k a).mpr ⟨rfl, rfl⟩⟩

end Sys2Proof.Machine
end

