-- ==== Sys2Proof/Laws/Cycle.lean ====
section
/-!
SUPPORT. The inversion lemma of the core's cycle step (40_cycle.md R90, R91): every next state it can
answer, and why. Beside it, how a row of the opcode map is shown to decode (30_encoding.md R73, R74).
-/

namespace Sys2Proof.Machine

/-- An instruction's effect leaves `run` alone, or enters the key wait. -/
theorem effect_run (i : Instr) (s : State) :
    (effect i s).run = s.run ∨ ∃ x, (effect i s).run = .awaitingKey x := by
  cases i <;> simp [effect, State.skipIf_eq, State.setRegThenFlag, drawEffect]

/-- A fault that is due at an instruction names `I` when it is `MEM_OOB`, and `pc` otherwise (R191). -/
theorem faultDueAt_record {i : Instr} {s : State} {k : FaultKind} {a : Word}
    (h : faultDueAt i s k a) : a = (if k = .memOob then s.i else s.pc) ∧ k ≠ .fetchOob := by
  cases i <;> simp only [faultDueAt] at h <;> obtain ⟨rfl, rfl, -⟩ := h <;> simp

/-- No fault's condition depends on the load window. -/
@[simp] theorem faultDueAt_closeLoad (i : Instr) (s : State) (k : FaultKind) (a : Word) :
    faultDueAt i s.closeLoad k a = faultDueAt i s k a := by
  cases i <;> rfl

/-- A cycle step in `Running` fetches and executes, the load window closed (R90). -/
theorem cycle_of_running {s : State} (h : s.run = .running) : cycle s = runningCycle s.closeLoad := by
  simp [cycle, h]

/-- With the fetch in bounds, a step in `Running` executes what the word at `pc` decodes to (R90). -/
theorem runningCycle_of_fetch {s : State} (h : s.pc.toNat + 2 ≤ 4096) :
    runningCycle s =
      execDecoded (decode (wordOfBytes (s.mem.read s.pc.toNat) (s.mem.read (s.pc.toNat + 1)))) s := by
  unfold runningCycle
  rw [(State.fetch_eq_some s _).mpr ⟨h, rfl⟩]

/-- With the fetch out of bounds, a step in `Running` raises `FETCH_OOB` (R93). -/
theorem runningCycle_of_fetchOob {s : State} (h : s.pc.toNat + 2 > 4096) :
    runningCycle s = raiseFault .fetchOob s.pc s := by
  unfold runningCycle
  rw [(State.fetch_eq_none s).mpr h]

/-- Every next state of a step in `Running`: an instruction's effect, a fault, or a tolerated unknown
word (R90, R94, R190). -/
theorem runningCycle_next {s t : State} (h : runningCycle s = .next t) :
    (∃ i, s.pc.toNat + 2 ≤ 4096 ∧
        decode (wordOfBytes (s.mem.read s.pc.toNat) (s.mem.read (s.pc.toNat + 1))) = .instr i ∧
        t = (effect i s.advance).wrapPc ∧ ∀ k a, ¬ faultDueAt i s k a) ∨
      (∃ i k a, s.pc.toNat + 2 ≤ 4096 ∧
        decode (wordOfBytes (s.mem.read s.pc.toNat) (s.mem.read (s.pc.toNat + 1))) = .instr i ∧
        t = (s.setRun (.faulted k a)).emit (.fatal k a) ∧ faultDueAt i s k a) ∨
      (s.pc.toNat + 2 > 4096 ∧
        t = (s.setRun (.faulted .fetchOob s.pc)).emit (.fatal .fetchOob s.pc)) ∨
      ∃ w, s.pc.toNat + 2 ≤ 4096 ∧
        decode (wordOfBytes (s.mem.read s.pc.toNat) (s.mem.read (s.pc.toNat + 1))) = .unknown w ∧
        t = (s.advance.emit (.diagnostic s.pc w)).wrapPc := by
  by_cases hp : s.pc.toNat + 2 ≤ 4096
  · rw [runningCycle_of_fetch hp] at h
    generalize decode (wordOfBytes (s.mem.read s.pc.toNat) (s.mem.read (s.pc.toNat + 1))) = d at h ⊢
    cases d with
    | instr i =>
      rcases exec_next h with ⟨ht, hn⟩ | ⟨k, a, ht, hd⟩
      · exact .inl ⟨i, hp, rfl, ht, hn⟩
      · exact .inr (.inl ⟨i, k, a, hp, rfl, ht, hd⟩)
    | unknown w => exact .inr (.inr (.inr ⟨w, hp, rfl, (complete_eq (fun t => t.emit (.diagnostic s.pc w)) s t).mp h⟩))
  · have hp' : s.pc.toNat + 2 > 4096 := by omega
    rw [runningCycle_of_fetchOob hp'] at h
    exact .inr (.inr (.inl ⟨hp', (raiseFault_eq _ _ _ _).mp h⟩))

/-! ## Rows of the opcode map -/

/-- A row selected by its top digit alone. -/
theorem rowDecodes_of_op {m c : Word} {f : Word → Instr} (hm : opField m = 0xF)
    (h : ∀ w, opField w = opField c → decode w = .instr (f w)) : rowDecodes m c f :=
  fun _ hw => h _ (opField_of_mask hw hm)

/-- A row selected by its first and last digits. -/
theorem rowDecodes_of_op_n {m c : Word} {f : Word → Instr} (hm : opField m = 0xF)
    (hn : nField m = 0xF)
    (h : ∀ w, opField w = opField c → nField w = nField c → decode w = .instr (f w)) :
    rowDecodes m c f :=
  fun _ hw => h _ (opField_of_mask hw hm) (nField_of_mask hw hn)

/-- A row selected by its first digit and its low byte. -/
theorem rowDecodes_of_op_kk {m c : Word} {f : Word → Instr} (hm : opField m = 0xF)
    (hk : kkField m = 0xFF)
    (h : ∀ w, opField w = opField c → kkField w = kkField c → decode w = .instr (f w)) :
    rowDecodes m c f :=
  fun _ hw => h _ (opField_of_mask hw hm) (kkField_of_mask hw hk)

end Sys2Proof.Machine
end

