-- ==== Sys2Proof/Laws/PerInstr.lean ====
section
/-!
SUPPORT. The per-instruction family RoundTrip: decoding the word of a well-formed instruction gives it
back, with every operand (30_encoding.md R74, R75). One lemma per constructor.
-/

namespace Sys2Proof.Laws.RoundTrip

/-- Decoding the instruction's word gives the instruction back. -/
def Statement (i : Instr) : Prop := i.wellFormed = true → decode (encode i) = .instr i

theorem sys (nnn : Addr12) : Statement (.sys nnn) := by
  intro h
  simp only [Instr.wellFormed, Bool.and_eq_true, sysIsNotCls, sysIsNotRet, bne_iff_ne] at h
  have h1 : packNNN 0#4 nnn ≠ 0x00E0#16 := fun e => h.1 (by
    have := congrArg nnnField e; rwa [nnnField_packNNN] at this)
  have h2 : packNNN 0#4 nnn ≠ 0x00EE#16 := fun e => h.2 (by
    have := congrArg nnnField e; rwa [nnnField_packNNN] at this)
  simp [decode, encode, decodeFamily0, h1, h2]

theorem cls : Statement .cls := by
  intro _; decide

theorem ret : Statement .ret := by
  intro _; decide

theorem jp (nnn : Addr12) : Statement (.jp nnn) := by
  intro _; simp [decode, encode]

theorem call (nnn : Addr12) : Statement (.call nnn) := by
  intro _; simp [decode, encode]

theorem seImm (x : Reg) (kk : Byte) : Statement (.seImm x kk) := by
  intro _; simp [decode, encode]

theorem sneImm (x : Reg) (kk : Byte) : Statement (.sneImm x kk) := by
  intro _; simp [decode, encode]

theorem seReg (x y : Reg) : Statement (.seReg x y) := by
  intro _; simp [decode, encode]

theorem ldImm (x : Reg) (kk : Byte) : Statement (.ldImm x kk) := by
  intro _; simp [decode, encode]

theorem addImm (x : Reg) (kk : Byte) : Statement (.addImm x kk) := by
  intro _; simp [decode, encode]

theorem ldReg (x y : Reg) : Statement (.ldReg x y) := by
  intro _; simp [decode, encode, decodeFamily8]

theorem orReg (x y : Reg) : Statement (.orReg x y) := by
  intro _; simp [decode, encode, decodeFamily8]

theorem andReg (x y : Reg) : Statement (.andReg x y) := by
  intro _; simp [decode, encode, decodeFamily8]

theorem xorReg (x y : Reg) : Statement (.xorReg x y) := by
  intro _; simp [decode, encode, decodeFamily8]

theorem addReg (x y : Reg) : Statement (.addReg x y) := by
  intro _; simp [decode, encode, decodeFamily8]

theorem subReg (x y : Reg) : Statement (.subReg x y) := by
  intro _; simp [decode, encode, decodeFamily8]

theorem shr (x y : Reg) : Statement (.shr x y) := by
  intro _; simp [decode, encode, decodeFamily8]

theorem subnReg (x y : Reg) : Statement (.subnReg x y) := by
  intro _; simp [decode, encode, decodeFamily8]

theorem shl (x y : Reg) : Statement (.shl x y) := by
  intro _; simp [decode, encode, decodeFamily8]

theorem sneReg (x y : Reg) : Statement (.sneReg x y) := by
  intro _; simp [decode, encode]

theorem ldI (nnn : Addr12) : Statement (.ldI nnn) := by
  intro _; simp [decode, encode]

theorem jpV0 (nnn : Addr12) : Statement (.jpV0 nnn) := by
  intro _; simp [decode, encode]

theorem rnd (x : Reg) (kk : Byte) : Statement (.rnd x kk) := by
  intro _; simp [decode, encode]

theorem drw (x y : Reg) (n : Nibble) : Statement (.drw x y n) := by
  intro _; simp [decode, encode]

theorem skp (x : Reg) : Statement (.skp x) := by
  intro _; simp [decode, encode, decodeFamilyE]

theorem sknp (x : Reg) : Statement (.sknp x) := by
  intro _; simp [decode, encode, decodeFamilyE]

theorem ldVxDt (x : Reg) : Statement (.ldVxDt x) := by
  intro _; simp [decode, encode, decodeFamilyF]

theorem ldVxK (x : Reg) : Statement (.ldVxK x) := by
  intro _; simp [decode, encode, decodeFamilyF]

theorem ldDtVx (x : Reg) : Statement (.ldDtVx x) := by
  intro _; simp [decode, encode, decodeFamilyF]

theorem ldStVx (x : Reg) : Statement (.ldStVx x) := by
  intro _; simp [decode, encode, decodeFamilyF]

theorem addI (x : Reg) : Statement (.addI x) := by
  intro _; simp [decode, encode, decodeFamilyF]

theorem ldF (x : Reg) : Statement (.ldF x) := by
  intro _; simp [decode, encode, decodeFamilyF]

theorem ldB (x : Reg) : Statement (.ldB x) := by
  intro _; simp [decode, encode, decodeFamilyF]

theorem storeRegs (x : Reg) : Statement (.storeRegs x) := by
  intro _; simp [decode, encode, decodeFamilyF]

theorem loadRegs (x : Reg) : Statement (.loadRegs x) := by
  intro _; simp [decode, encode, decodeFamilyF]

end Sys2Proof.Laws.RoundTrip
end

