-- ==== Sys2Proof/Tests/Slice0.lean ====
section
/-!
SUPPORT. The model's own tests, each named for what it shows. Expected values come from the spec: words from
30_encoding.md R74, results from 95_test_vectors.md (the vector's name stands beside each test). Then, for
every statement with hypotheses, a witness that meets them all.
-/

namespace Sys2Proof.Tests

open Sys2Proof.Machine

/-! ## WellFormed: the terms each check refuses -/

theorem test_wellFormed_refuses_sys_0E0 : (Instr.sys 0x0E0).wellFormed = false := by decide
theorem test_wellFormed_refuses_sys_0EE : (Instr.sys 0x0EE).wellFormed = false := by decide
theorem test_sysIsNotCls : sysIsNotCls 0x0E0 = false ∧ sysIsNotCls 0x0EE = true := by decide
theorem test_sysIsNotRet : sysIsNotRet 0x0EE = false ∧ sysIsNotRet 0x0E0 = true := by decide
theorem test_wellFormed_accepts_sys_0E1 : (Instr.sys 0x0E1).wellFormed = true := by decide

/-! ## Decoding: a word of each row of R74, written out from its pattern -/

theorem test_decode_sys : decode 0b0000_0001_0010_0011 = .instr (.sys 0x123) := by decide
theorem test_decode_cls : decode 0b0000_0000_1110_0000 = .instr .cls := by decide
theorem test_decode_ret : decode 0b0000_0000_1110_1110 = .instr .ret := by decide
theorem test_decode_jp : decode 0b0001_1010_1011_1100 = .instr (.jp 0xABC) := by decide
theorem test_decode_call : decode 0b0010_0011_0000_0000 = .instr (.call 0x300) := by decide
theorem test_decode_seImm : decode 0b0011_0011_0001_0000 = .instr (.seImm 3 0x10) := by decide
theorem test_decode_sneImm : decode 0b0100_0011_0001_0000 = .instr (.sneImm 3 0x10) := by decide
theorem test_decode_seReg : decode 0b0101_0001_0010_0000 = .instr (.seReg 1 2) := by decide
theorem test_decode_ldImm : decode 0b0110_1010_0000_0111 = .instr (.ldImm 10 0x07) := by decide
theorem test_decode_addImm : decode 0b0111_0010_0000_0101 = .instr (.addImm 2 0x05) := by decide
theorem test_decode_ldReg : decode 0b1000_0001_0010_0000 = .instr (.ldReg 1 2) := by decide
theorem test_decode_orReg : decode 0b1000_0001_0010_0001 = .instr (.orReg 1 2) := by decide
theorem test_decode_andReg : decode 0b1000_0001_0010_0010 = .instr (.andReg 1 2) := by decide
theorem test_decode_xorReg : decode 0b1000_0001_0010_0011 = .instr (.xorReg 1 2) := by decide
theorem test_decode_addReg : decode 0b1000_0001_0010_0100 = .instr (.addReg 1 2) := by decide
theorem test_decode_subReg : decode 0b1000_0001_0010_0101 = .instr (.subReg 1 2) := by decide
theorem test_decode_shr : decode 0b1000_1010_1011_0110 = .instr (.shr 10 11) := by decide
theorem test_decode_subnReg : decode 0b1000_0001_0010_0111 = .instr (.subnReg 1 2) := by decide
theorem test_decode_shl : decode 0b1000_0100_0000_1110 = .instr (.shl 4 0) := by decide
theorem test_decode_sneReg : decode 0b1001_0001_0010_0000 = .instr (.sneReg 1 2) := by decide
theorem test_decode_ldI : decode 0b1010_0011_0000_0000 = .instr (.ldI 0x300) := by decide
theorem test_decode_jpV0 : decode 0b1011_0001_0010_0011 = .instr (.jpV0 0x123) := by decide
theorem test_decode_rnd : decode 0b1100_0000_0000_1111 = .instr (.rnd 0 0x0F) := by decide
theorem test_decode_drw : decode 0b1101_0001_0010_0101 = .instr (.drw 1 2 5) := by decide
theorem test_decode_skp : decode 0b1110_0101_1001_1110 = .instr (.skp 5) := by decide
theorem test_decode_sknp : decode 0b1110_0101_1010_0001 = .instr (.sknp 5) := by decide
theorem test_decode_ldVxDt : decode 0b1111_0000_0000_0111 = .instr (.ldVxDt 0) := by decide
theorem test_decode_ldVxK : decode 0b1111_0010_0000_1010 = .instr (.ldVxK 2) := by decide
theorem test_decode_ldDtVx : decode 0b1111_0000_0001_0101 = .instr (.ldDtVx 0) := by decide
theorem test_decode_ldStVx : decode 0b1111_0000_0001_1000 = .instr (.ldStVx 0) := by decide
theorem test_decode_addI : decode 0b1111_0010_0001_1110 = .instr (.addI 2) := by decide
theorem test_decode_ldF : decode 0b1111_0011_0010_1001 = .instr (.ldF 3) := by decide
theorem test_decode_ldB : decode 0b1111_0001_0011_0011 = .instr (.ldB 1) := by decide
theorem test_decode_storeRegs : decode 0b1111_0011_0101_0101 = .instr (.storeRegs 3) := by decide
theorem test_decode_loadRegs : decode 0b1111_0010_0110_0101 = .instr (.loadRegs 2) := by decide

/-- V-DEC: the unknown words of families 5, 8 and 9. -/
theorem test_decode_unknown_589 : decode 0x5121 = .unknown 0x5121 ∧ decode 0x8008 = .unknown 0x8008 ∧
    decode 0x800F = .unknown 0x800F ∧ decode 0x9001 = .unknown 0x9001 := by decide

/-- V-DEC: the unknown words of families E and F. -/
theorem test_decode_unknown_EF : decode 0xE09F = .unknown 0xE09F ∧ decode 0xF000 = .unknown 0xF000 ∧
    decode 0xF01F = .unknown 0xF01F ∧ decode 0xFFFF = .unknown 0xFFFF := by decide

/-- V-DEC: the near misses of family 0. -/
theorem test_decode_family0 : decode 0x0000 = .instr (.sys 0) ∧ decode 0x00E1 = .instr (.sys 0x0E1) ∧
    decode 0x0FFF = .instr (.sys 0xFFF) := by decide

/-- R53: the byte at the lower address is the word's high byte. -/
theorem test_decodeBytes : decodeBytes 0x6A 0x07 = .instr (.ldImm 10 0x07) := by decide

theorem test_decodeTableWord : decodeTableWord 16 0xD125 = some (.drw 1 2 5) ∧
    decodeTableWord 16 0x5121 = none := by decide

/-- R74: the words of the patterns, packed. -/
theorem test_encode : encode (.drw 1 2 5) = 0xD125 ∧ encode (.ldImm 10 7) = 0x6A07 ∧
    encode (.jp 0xABC) = 0x1ABC ∧ encode (.storeRegs 3) = 0xF355 := by decide

/-! ## One step -/

/-- The reset state with some registers set. -/
def withRegs (l : List (Reg × Byte)) : State := l.foldl (fun s p => s.setReg p.1 p.2) State.reset

/-- A state with a word written at an address and `pc` there. -/
def atWord (s : State) (a w : Word) : State :=
  (s.setPc a).setMem (s.mem.writeRange a.toNat [hiByte w, loByte w])

/-- Does the step on the word, placed where the state fetches next, answer a state with the property? -/
def runs (w : Nat) (s : State) (p : State → Bool) : Bool :=
  match step (s.withFetchWord 16 w) with
  | .next t => p t
  | .fault _ => false
  | .refused _ => false

/-- Does the action answer a state with the property? -/
def acts (a : Action) (s : State) (p : State → Bool) : Bool :=
  match act a s with
  | .next t => p t
  | .fault _ => false
  | .refused _ => false

/-! ### The cycle (V-CYC) -/

/-- CYC1 -/
theorem test_cycle_advances : runs 0x602A State.reset (fun t => t.reg 0 == 0x2A && t.pc == 0x202) := by
  decide

/-- CYC2 -/
theorem test_unknown_word : runs 0x5001 State.reset
    (fun t => t.pc == 0x202 && t.events == [.diagnostic 0x200 0x5001]) := by decide

/-- CYC3 -/
theorem test_unknown_word_wraps : runs 0x5001 (State.reset.setPc 0xFFE)
    (fun t => t.pc == 0 && t.events == [.diagnostic 0xFFE 0x5001]) := by decide

/-- CYC4 -/
theorem test_sys : runs 0x0123 State.reset (fun t => t.pc == 0x202 && t.v == State.reset.v) := by
  decide

/-- CYC6, its second step -/
theorem test_fetchOob : acts .cycle (State.reset.setPc 0xFFF)
    (fun t => t.run == .faulted .fetchOob 0xFFF && t.pc == 0xFFF &&
      t.events == [.fatal .fetchOob 0xFFF]) := by decide

/-- CYC7 -/
theorem test_cycle_awaitingKey : acts .cycle ((State.reset.setRun (.awaitingKey 3)).setDraw true)
    (fun t => t.run == .awaitingKey 3 && t.pc == 0x200 && t.draw == false) := by decide

/-- R53, R70: the bytes of a word stored high byte first are fetched as the word, at an odd address too
(R54). -/
theorem test_fetch_odd : ((State.reset.setPc 0x301).setMem [(0x301, 0x6A), (0x302, 0x07)]).fetch
    = some 0x6A07 := by decide

/-! ### Control transfer (V-CF) -/

/-- CF1 -/
theorem test_jp : runs 0x1ABC State.reset (fun t => t.pc == 0xABC && t.sp == 0) := by decide

/-- CF3 -/
theorem test_call : runs 0x2300 State.reset
    (fun t => t.stackAt 0 == 0x202 && t.sp == 1 && t.pc == 0x300) := by decide

/-- CF7 -/
theorem test_call_pushes_unwrapped : runs 0x2300 (State.reset.setPc 0xFFE)
    (fun t => t.stackAt 0 == 0x1000 && t.pc == 0x300) := by decide

/-- CF4 -/
theorem test_ret : runs 0x00EE (State.reset.push 0x204)
    (fun t => t.sp == 0 && t.pc == 0x204 && t.stackAt 0 == 0x204) := by decide

/-- CF5 -/
theorem test_ret_underflow : runs 0x00EE State.reset
    (fun t => t.run == .faulted .stackUnderflow 0x200 && t.pc == 0x200) := by decide

/-- CF9 -/
theorem test_jpV0 : runs 0xB300 (withRegs [(0, 0x04), (3, 0x50)]) (fun t => t.pc == 0x304) := by
  decide

/-- CF10 -/
theorem test_jpV0_wraps : runs 0xBFFF (withRegs [(0, 0xFF)]) (fun t => t.pc == 0x0FE) := by decide

/-! ### Skips (V-SK) -/

/-- SK1, SK2 -/
theorem test_seImm : runs 0x3310 (withRegs [(3, 0x10)]) (fun t => t.pc == 0x204) ∧
    runs 0x3310 (withRegs [(3, 0x11)]) (fun t => t.pc == 0x202) := by decide

/-- SK3, SK4 -/
theorem test_sneImm : runs 0x4310 (withRegs [(3, 0x10)]) (fun t => t.pc == 0x202) ∧
    runs 0x4310 State.reset (fun t => t.pc == 0x204) := by decide

/-- SK5, SK6 -/
theorem test_seReg : runs 0x5120 (withRegs [(1, 7), (2, 7)]) (fun t => t.pc == 0x204) ∧
    runs 0x5440 (withRegs [(4, 9)]) (fun t => t.pc == 0x204) := by decide

/-- SK7, SK8 -/
theorem test_sneReg : runs 0x9120 (withRegs [(1, 7), (2, 8)]) (fun t => t.pc == 0x204) ∧
    runs 0x9440 (withRegs [(4, 9)]) (fun t => t.pc == 0x202) := by decide

/-- SK9, SK12 -/
theorem test_skp : runs 0xE59E ((withRegs [(5, 0xA)]).setKey 10 true) (fun t => t.pc == 0x204) ∧
    runs 0xE59E (withRegs [(5, 0x10)]) (fun t => t.run == .faulted .operandRange 0x200) := by decide

/-- SK11, SK13 -/
theorem test_sknp : runs 0xE5A1 (withRegs [(5, 0xA)]) (fun t => t.pc == 0x204) ∧
    runs 0xE5A1 (withRegs [(5, 0xFF)]) (fun t => t.run == .faulted .operandRange 0x200) := by decide

/-- SK14 -/
theorem test_skip_wraps : runs 0x3000 (State.reset.setPc 0xFFE) (fun t => t.pc == 2) := by decide

/-! ### Loads, arithmetic, logic, shifts (V-ALU) -/

/-- ALU2 -/
theorem test_ldImm : runs 0x6FAB State.reset (fun t => t.reg 15 == 0xAB) := by decide

/-- ALU4 -/
theorem test_addImm : runs 0x7202 (withRegs [(2, 0xFF)]) (fun t => t.reg 2 == 0x01 && t.reg 15 == 0) := by
  decide

/-- ALU6 -/
theorem test_ldReg : runs 0x8120 (withRegs [(2, 0x33)]) (fun t => t.reg 1 == 0x33 && t.reg 2 == 0x33) := by
  decide

/-- ALU7 -/
theorem test_orReg : runs 0x8121 (withRegs [(1, 0x0F), (2, 0xF0), (15, 0x5A)])
    (fun t => t.reg 1 == 0xFF && t.reg 15 == 0x5A) := by decide

/-- ALU8 -/
theorem test_andReg : runs 0x8122 (withRegs [(1, 0x3C), (2, 0x0F), (15, 0x5A)])
    (fun t => t.reg 1 == 0x0C && t.reg 15 == 0x5A) := by decide

/-- ALU9 -/
theorem test_xorReg : runs 0x8123 (withRegs [(1, 0x3C), (2, 0x0F)]) (fun t => t.reg 1 == 0x33) := by
  decide

/-- ALU11 -/
theorem test_addReg : runs 0x8124 (withRegs [(1, 0xFF), (2, 0x01)])
    (fun t => t.reg 1 == 0 && t.reg 15 == 1) := by decide

/-- ALU14: the flag wins. -/
theorem test_addReg_vf : runs 0x8F14 (withRegs [(15, 0x01), (1, 0x01)]) (fun t => t.reg 15 == 0) := by
  decide

/-- ALU17 -/
theorem test_subReg : runs 0x8125 (withRegs [(2, 0x01)]) (fun t => t.reg 1 == 0xFF && t.reg 15 == 0) := by
  decide

/-- ALU20 -/
theorem test_subnReg : runs 0x8127 (withRegs [(1, 0x03), (2, 0x05)])
    (fun t => t.reg 1 == 0x02 && t.reg 15 == 1) := by decide

/-- ALU23 -/
theorem test_shr : runs 0x8496 (withRegs [(4, 0x05), (9, 0xFF)])
    (fun t => t.reg 4 == 0x02 && t.reg 15 == 1 && t.reg 9 == 0xFF) := by decide

/-- ALU26 -/
theorem test_shl : runs 0x840E (withRegs [(4, 0x81)]) (fun t => t.reg 4 == 0x02 && t.reg 15 == 1) := by
  decide

/-- ALU28: the flag wins. -/
theorem test_shl_vf : runs 0x8F0E (withRegs [(15, 0x40)]) (fun t => t.reg 15 == 0) := by decide

/-- ALU30, for any draw -/
theorem test_rnd_zero_mask : ∃ t, exec (.rnd 0 0) State.reset = .next t ∧ t.reg 0 = 0 :=
  ⟨_, rfl, BitVec.and_zero⟩

/-! ### The index register and memory (V-IM) -/

/-- IM2 -/
theorem test_ldI : runs 0xAFFF State.reset (fun t => t.i == 0xFFF) := by decide

/-- IM5 -/
theorem test_addI : runs 0xF21E ((withRegs [(2, 0xFF), (15, 9)]).setI 0xF80)
    (fun t => t.i == 0x07F && t.reg 15 == 9) := by decide

/-- IM6, for any `FONT_BASE` -/
theorem test_ldF : ∃ t, exec (.ldF 3) (withRegs [(3, 0x0A)]) = .next t ∧
    t.i = BitVec.ofNat 16 (fontBase + 50) := ⟨_, rfl, rfl⟩

/-- IM8 -/
theorem test_ldF_range : runs 0xF329 (withRegs [(3, 0x10)])
    (fun t => t.run == .faulted .operandRange 0x200 && t.i == 0) := by decide

/-- IM9 -/
theorem test_ldB : runs 0xF133 ((withRegs [(1, 0x9C)]).setI 0x300)
    (fun t => t.mem.readRange 0x300 3 == [1, 5, 6]) := by decide

/-- IM13 -/
theorem test_ldB_oob : runs 0xF133 ((withRegs [(1, 7)]).setI 0xFFE)
    (fun t => t.run == .faulted .memOob 0xFFE && t.mem.readRange 0xFFE 2 == [0, 0]) := by decide

/-- IM14, E8 -/
theorem test_storeRegs : runs 0xF355
    ((withRegs [(0, 0x11), (1, 0x22), (2, 0x33), (3, 0x44), (4, 0x55)]).setI 0x300)
    (fun t => t.mem.readRange 0x300 5 == [0x11, 0x22, 0x33, 0x44, 0] && t.i == 0x300) := by decide

/-- IM16 -/
theorem test_storeRegs_oob : runs 0xF155 ((withRegs [(0, 0xAA), (1, 0xBB)]).setI 0xFFF)
    (fun t => t.run == .faulted .memOob 0xFFF && t.mem.read 0xFFF == 0) := by decide

/-- IM18 -/
theorem test_loadRegs : runs 0xF265
    (((withRegs [(3, 0x99)]).setI 0x300).setMem [(0x300, 0x11), (0x301, 0x22), (0x302, 0x33)])
    (fun t => [t.reg 0, t.reg 1, t.reg 2, t.reg 3] == [0x11, 0x22, 0x33, 0x99] && t.i == 0x300) := by
  decide

/-- IM20 -/
theorem test_loadRegs_oob : runs 0xFF65 ((withRegs [(0, 5)]).setI 0xFF1)
    (fun t => t.run == .faulted .memOob 0xFF1 && t.reg 0 == 5) := by decide

/-! ### Timers and keys (V-TK) -/

/-- TK1 -/
theorem test_ldVxDt : runs 0xF007 (State.reset.setDt 0x3C) (fun t => t.reg 0 == 0x3C) := by decide

/-- TK2 -/
theorem test_ldDtVx : runs 0xF015 (withRegs [(0, 10)]) (fun t => t.dt == 10 && t.st == 0) := by
  decide

/-- TK4, its first step -/
theorem test_ldStVx : runs 0xF018 (withRegs [(0, 2)]) (fun t => t.st == 2 && t.events == []) := by
  decide

/-- TK7, TK11: a held key does not end the wait. -/
theorem test_ldVxK : runs 0xF20A (State.reset.setKey 5 true)
    (fun t => t.run == .awaitingKey 2 && t.pc == 0x202) := by decide

/-- TK8 -/
theorem test_keyDown : acts (.keyDown 7) (State.reset.setRun (.awaitingKey 2))
    (fun t => t.key 7 && t.lastKey == some 7 && t.reg 2 == 7 && t.run == .running) := by decide

/-- TK9 -/
theorem test_keyUp : acts (.keyUp 4) ((State.reset.setKey 4 true).setRun (.awaitingKey 2))
    (fun t => t.key 4 == false && t.lastKey == none && t.run == .awaitingKey 2) := by decide

/-- TK5, its second step -/
theorem test_beep : acts .tickSt (State.reset.setSt 1) (fun t => t.st == 0 && t.events == [.beep]) := by
  decide

/-- TK4, its second step: no beep from 2 to 1. -/
theorem test_no_beep : acts .tickSt (State.reset.setSt 2) (fun t => t.st == 1 && t.events == []) := by
  decide

/-- TK6 -/
theorem test_tickDt_at_zero : act .tickDt State.reset = .refused .tickAtZero := by rfl

/-- TK14 -/
theorem test_reset_ends_wait : acts .reset ((withRegs [(2, 9)]).setRun (.awaitingKey 2))
    (fun t => t == State.reset) := by decide

/-! ### Graphics (V-GR) -/

/-- GR1 -/
theorem test_cls : runs 0x00E0 (State.reset.setScreen (Screen.clear.flip 5 5))
    (fun t => t.screen.px 5 5 == false && t.draw) := by decide

/-- GR4: clipped at the right edge. -/
theorem test_drw_right_edge : runs 0xD011 (((withRegs [(0, 62)]).setI 0x300).setMem [(0x300, 0xFF)])
    (fun t => t.screen.px 62 0 && t.screen.px 63 0 && t.screen.px 61 0 == false && t.screen.px 0 0 == false &&
      t.screen.px 0 1 == false && t.reg 15 == 0 && t.draw) := by decide

/-- GR7: the anchor wraps. -/
theorem test_drw_anchor : runs 0xD011 (((withRegs [(0, 0xFF), (1, 0xFF)]).setI 0x300).setMem [(0x300, 0x80)])
    (fun t => t.screen.px 63 31 && t.screen.px 0 31 == false && t.screen.px 63 0 == false) := by decide

/-- GR9: a collision. -/
theorem test_drw_collision : runs 0xD011
    (((State.reset.setI 0x300).setMem [(0x300, 0xC0)]).setScreen (Screen.clear.flip 1 0))
    (fun t => t.screen.px 0 0 && t.screen.px 1 0 == false && t.reg 15 == 1) := by decide

/-- GR12: clipped rows are still read. -/
theorem test_drw_bottom_edge : runs 0xD015
    (((withRegs [(1, 31)]).setI 0xFFB).setMem [(0xFFB, 0x80), (0xFFC, 0x80)])
    (fun t => t.screen.px 0 31 && t.screen.px 0 0 == false && t.reg 15 == 0) := by decide

/-- GR11 -/
theorem test_drw_oob : runs 0xD015 ((withRegs [(15, 7)]).setI 0xFFC)
    (fun t => t.run == .faulted .memOob 0xFFC && t.reg 15 == 7) := by decide

/-! ### Reset and load (V-RST) -/

/-- RST2 -/
theorem test_load : acts (.load [0x12, 0x00, 0x00, 0xE0]) State.reset
    (fun t => t.mem.readRange 0x200 4 == [0x12, 0x00, 0x00, 0xE0] && t.pc == 0x200) := by decide

/-- RST3, RST4: the largest image and one byte more. -/
theorem test_load_bound : (∀ rom : List Byte, rom.length = 3584 → romFits rom) ∧
    ∀ rom : List Byte, rom.length = 3585 → ¬ romFits rom := by
  constructor <;> intro rom h <;> unfold romFits Config.programBase Config.memSize <;> omega

/-- R97: no load after the first core step. -/
theorem test_load_after_step : act (.load [0x12]) State.reset.closeLoad = .refused .loadAfterFirstStep := by
  rfl

/-- R91: no step of a faulted core. -/
theorem test_faulted_stops :
    cycle (State.reset.setRun (.faulted .memOob 0xFFE)) = .fault (.stopped .memOob 0xFFE) := by rfl

/-! ### Memory -/

/-- Writing what an unlisted address reads as removes the entry: equal memories are equal data. -/
theorem test_memory_canonical : (Memory.write [(0x300, 5)] 0x300 0) = [] ∧
    Memory.write (Memory.write [] 0x301 1) 0x300 2 = [(0x300, 2), (0x301, 1)] := by decide

/-! ## Witnesses: for every statement with hypotheses, inputs that meet them all -/

/-- A memory holding one word. -/
def oneWord (a : Nat) (w : Word) : Memory := Memory.writeRange [] a [hiByte w, loByte w]

/-- The reset state with `sp` set. -/
def withSp (k : Fin 17) : State := { State.reset with sp := k }

theorem witness_DecodeOfEncodeIsIdentity : (Instr.drw 15 15 15).wellFormed = true ∧
    (Instr.sys 0x0ED).wellFormed = true := by decide

theorem witness_EncodeOfDecodeIsTheWord : decode 0xFF65 = .instr (.loadRegs 15) ∧
    decode 0x0FFF = .instr (.sys 0xFFF) := by decide

/-- A word of a row, a word of SYS that no other row selects, and a word of no row. -/
theorem witness_OpcodeMapSelectsByMaskAndMatch :
    (∃ r ∈ opcodeRows, r.selects 0xDFFF) ∧
    ((∀ r ∈ opcodeRows, ¬ r.selects 0x00EF) ∧ ∃ r ∈ rowSys, r.selects 0x00EF) ∧
    ((∀ r ∈ opcodeRows, ¬ r.selects 0x5FFF) ∧ ∀ r ∈ rowSys, ¬ r.selects 0x5FFF) := by decide

theorem witness_OpcodeRowsDoNotOverlap :
    ∃ r ∈ opcodeRows, ∃ r' ∈ opcodeRows, r.selects 0x00EE ∧ r'.selects 0x00EE := by decide

/-- Both sides of the equivalence, in each family. -/
theorem witness_UnknownWordsByFamily : decode 0x5FF1 = .unknown 0x5FF1 ∧ decode 0x8FFD = .unknown 0x8FFD ∧
    decode 0x9FFF = .unknown 0x9FFF ∧ decode 0xEF9F = .unknown 0xEF9F ∧
    decode 0xFF66 = .unknown 0xFF66 := by decide

theorem witness_StepIsNextScheduledAction : State.reset.schedule = [] ∧
    (State.reset.setSchedule [.tickDt, .cycle]).schedule = .tickDt :: [.cycle] := ⟨rfl, rfl⟩

/-- At the last address a fetch can read, with a turn of the core scheduled before a key press. -/
theorem witness_StepRunsTheDecodedInstruction :
    ∃ (s : State) (i : Instr), s.run = .running ∧ s.schedule.headD .cycle = .cycle ∧
      s.schedule = [.cycle, .keyDown 3] ∧ s.pc.toNat + 2 = 4096 ∧
      decode (wordOfBytes (s.mem.read s.pc.toNat) (s.mem.read (s.pc.toNat + 1))) = .instr i :=
  ⟨((State.reset.setPc 0xFFE).setMem (oneWord 0xFFE 0x6A07)).setSchedule [.cycle, .keyDown 3],
    .ldImm 10 7, by decide⟩

theorem witness_PlacedWordIsRunNext : decode 0xF065 = .instr (.loadRegs 0) := by decide

theorem witness_UnknownWordIsTolerated :
    ∃ (s : State) (u : Word), s.run = .running ∧ s.pc.toNat + 2 = 4096 ∧
      decode (wordOfBytes (s.mem.read s.pc.toNat) (s.mem.read (s.pc.toNat + 1))) = .unknown u :=
  ⟨(State.reset.setPc 0xFFE).setMem (oneWord 0xFFE 0x5001), 0x5001, by decide⟩

/-- The one address whose fetch fails, and the step that fails there. -/
theorem witness_FetchPastMemoryFaults :
    (State.reset.setPc 0xFFF).run = .running ∧ (State.reset.setPc 0xFFF).pc.toNat + 2 = 4097 ∧
    ∃ t, cycle (State.reset.setPc 0xFFF) = .next t ∧ t.run = .faulted .fetchOob 0xFFF :=
  ⟨rfl, by decide, _, rfl, rfl⟩

theorem witness_CoreStepOutsideRunning : (State.reset.setRun (.awaitingKey 15)).run = .awaitingKey 15 ∧
    (State.reset.setRun (.faulted .fetchOob 0xFFF)).run = .faulted .fetchOob 0xFFF := ⟨rfl, rfl⟩

theorem witness_FetchedWordIsBigEndian : (State.reset.setPc 0xFFE).pc.toNat + 2 = 4096 := by decide

/-- The instruction stores over the word after it: `I` is the address after the FX55, `k` is 0. -/
theorem witness_StoredWordIsFetchedNext :
    ∃ t, exec (.storeRegs 1) (State.reset.setI 0x202) = .next t ∧
      (State.reset.setI 0x202).i.toNat + (1 : Reg).val + 1 ≤ 4096 ∧
      t.pc.toNat = (State.reset.setI 0x202).dataAddr + (0 : Reg).val ∧
      (0 : Reg).val + 1 ≤ (1 : Reg).val := ⟨_, rfl, by decide, by decide, by decide⟩

theorem witness_FaultIsPrecise :
    ∃ t, (State.reset.setPc 0xFFF).run = .running ∧ cycle (State.reset.setPc 0xFFF) = .next t ∧
      t.run = .faulted .fetchOob 0xFFF := ⟨_, rfl, rfl, rfl⟩

/-- A running state in which no fault is due, and one in which one is. -/
theorem witness_FaultsAreThoseOfTheTable : State.reset.run = .running ∧
    (State.reset.setPc 0xFFF).run = .running ∧ faultDue (State.reset.setPc 0xFFF) .fetchOob 0xFFF := by
  exact ⟨rfl, rfl, rfl, rfl⟩

theorem witness_FaultedHasNoExit :
    (State.reset.setRun (.faulted .stackOverflow 0x200)).run = .faulted .stackOverflow 0x200 := rfl

theorem witness_CoreSendsNoBeep : ∃ t, cycle (State.reset.setPc 0xFFF) = .next t ∧
    t.events = [.fatal .fetchOob 0xFFF] := ⟨_, rfl, rfl⟩

theorem witness_SysIsNoOp : (0x00E1 : Word) &&& 0xF000 = 0 ∧ (0x00E1 : Word) ≠ 0x00E0 ∧
    (0x00E1 : Word) ≠ 0x00EE := by decide

/-- One word for every row of the opcode map that a statement selects by mask and match: the row's match
with every free bit set. -/
theorem witness_rowDecodes :
    (0x1FFF : Word) &&& 0xF000 = 0x1000 ∧ (0x2FFF : Word) &&& 0xF000 = 0x2000 ∧
    (0x3FFF : Word) &&& 0xF000 = 0x3000 ∧ (0x4FFF : Word) &&& 0xF000 = 0x4000 ∧
    (0x5FF0 : Word) &&& 0xF00F = 0x5000 ∧ (0x6FFF : Word) &&& 0xF000 = 0x6000 ∧
    (0x7FFF : Word) &&& 0xF000 = 0x7000 ∧ (0x8FFE : Word) &&& 0xF00F = 0x800E ∧
    (0x9FF0 : Word) &&& 0xF00F = 0x9000 ∧ (0xAFFF : Word) &&& 0xF000 = 0xA000 ∧
    (0xBFFF : Word) &&& 0xF000 = 0xB000 ∧ (0xCFFF : Word) &&& 0xF000 = 0xC000 ∧
    (0xDFFF : Word) &&& 0xF000 = 0xD000 ∧ (0xEFA1 : Word) &&& 0xF0FF = 0xE0A1 ∧
    (0xFF65 : Word) &&& 0xF0FF = 0xF065 := by decide

/-- The stack with its least and most entries, and empty. -/
theorem witness_RetPopsOrUnderflows : (withSp 1).sp.val = (0 : Fin 16).val + 1 ∧
    (withSp 16).sp.val = (15 : Fin 16).val + 1 ∧ (withSp 0).sp.val = 0 := by decide

/-- The stack empty, with one entry free, and full; `pc` where the pushed address is 0x1000. -/
theorem witness_CallPushesOrOverflows :
    ((withSp 0).sp.val = (0 : Fin 16).val ∧ (withSp 0).pc.toNat < 4096) ∧
    (((withSp 15).setPc 0xFFE).sp.val = (15 : Fin 16).val ∧ ((withSp 15).setPc 0xFFE).pc.toNat < 4096) ∧
    (withSp 16).sp.val = 16 := by decide

theorem witness_RetAfterCallReturns : ((withSp 15).setPc 0xFFE).sp.val < 16 ∧
    ((withSp 15).setPc 0xFFE).pc.toNat < 4096 := by decide

/-- The last key and the first value above it. -/
theorem witness_SkipsOnKey : ((withRegs [(5, 15)]).reg 5).toNat = (15 : KeyIndex).val ∧
    ((withRegs [(5, 16)]).reg 5).toNat > 15 := by decide

/-- A destination that is not VF, which the statements on flags ask for. -/
theorem witness_AddSetsCarry : (14 : Reg) ≠ vf := by decide
theorem witness_SubtractSetsNoBorrow : (0 : Reg) ≠ vf := by decide
theorem witness_ShiftsByOneBit : (1 : Reg) ≠ vf := by decide

theorem witness_GlyphAddressOrRangeFault : ((withRegs [(3, 15)]).reg 3).toNat ≤ 15 ∧
    ((withRegs [(3, 16)]).reg 3).toNat > 15 := by decide

theorem witness_BcdDigitsAreStored : (State.reset.setI 0xFFD).i.toNat + 3 = 4096 ∧
    (State.reset.setI 0xFFE).i.toNat + 3 > 4096 := by decide

theorem witness_RegistersAreStored : (State.reset.setI 0xFF0).i.toNat + (15 : Reg).val + 1 = 4096 ∧
    (State.reset.setI 0xFF1).i.toNat + (15 : Reg).val + 1 > 4096 ∧ (15 : Reg).val ≤ (15 : Reg).val := by
  decide

theorem witness_RegistersAreLoaded : (State.reset.setI 0xFFF).i.toNat + (0 : Reg).val + 1 = 4096 ∧
    (State.reset.setI 0xFFF).i.toNat + (1 : Reg).val + 1 > 4096 ∧ (0 : Reg).val ≤ (0 : Reg).val := by
  decide

theorem witness_LoadAfterStoreRestores :
    (State.reset.setI 0xFF0).i.toNat + (15 : Reg).val + 1 ≤ 4096 := by decide

/-- FX0A from a state whose timers are positive, and an action after it that is no press and no reset. -/
theorem witness_KeyWaitEndsAtFirstPress :
    ∃ t, exec (.ldVxK 15) ((State.reset.setDt 1).setSt 1) = .next t ∧ t.dt ≠ 0 ∧ t.st ≠ 0 ∧
      (∀ d, Action.tickSt ≠ .keyDown d) ∧ Action.tickSt ≠ .reset ∧ ∃ u, act .tickSt t = .next u :=
  ⟨_, rfl, by decide, by decide, nofun, nofun, _, rfl⟩

/-- Each timer at 1 and at 255, at 0, and a faulted core. -/
theorem witness_TicksCountDownToZero :
    ((State.reset.setDt 1).live = true ∧ (State.reset.setDt 1).dt ≠ 0) ∧
    ((State.reset.setSt 1).live = true ∧ (State.reset.setSt 1).st ≠ 0) ∧
    ((State.reset.setSt 255).live = true ∧ (State.reset.setSt 255).st ≠ 0) ∧
    State.reset.dt = 0 ∧ State.reset.st = 0 ∧
    ((State.reset.setDt 1).setRun (.faulted .memOob 0)).live = false := by decide

theorem witness_KeyEventsSetKeysAndEndWaits : State.reset.run = .running ∧
    (State.reset.setRun (.awaitingKey 15)).run = .awaitingKey 15 ∧
    (State.reset.setRun (.awaitingKey 15)).live = true := ⟨rfl, rfl, rfl⟩

/-- The longest sprite at the last address it fits, and one byte further. -/
theorem witness_DrawSpriteXorsAndCollides : (State.reset.setI 0xFF1).i.toNat + (15 : Nibble).toNat = 4096 ∧
    (State.reset.setI 0xFF2).i.toNat + (15 : Nibble).toNat > 4096 := by decide

/-- A draw whose coordinates the flag does not change, `x` being 0. -/
theorem witness_DoubleDrawRestoresScreen :
    ∃ t, (State.reset.setI 0x300).i.toNat + (1 : Nibble).toNat ≤ 4096 ∧
      exec (.drw 0 1 1) (State.reset.setI 0x300) = .next t ∧
      t.reg 0 = (State.reset.setI 0x300).reg 0 ∧ t.reg 1 = (State.reset.setI 0x300).reg 1 ∧
      (0 : Reg) ≠ vf ∧ (1 : Reg) ≠ vf := ⟨_, by decide, rfl, by decide, by decide, by decide, by decide⟩

/-- One instruction that meets every clause's hypothesis at once. -/
theorem witness_OnlyTheseInstructionsWrite :
    (∃ t, exec (.jp 0x300) State.reset = .next t) ∧ (∀ nnn, Instr.jp 0x300 ≠ .ldI nnn) ∧
    (∀ nnn, Instr.jp 0x300 ≠ .call nnn) ∧ Instr.jp 0x300 ≠ .ret ∧ Instr.jp 0x300 ≠ .cls :=
  ⟨⟨_, rfl⟩, nofun, nofun, nofun, nofun⟩

/-- A register written as a destination, and VF written as a flag. -/
theorem witness_OnlyDestinationsAndFlagAreWritten :
    (∃ t, exec (.ldImm 3 9) State.reset = .next t ∧ t.reg 3 ≠ State.reset.reg 3) ∧
    (∃ t, exec (.shr 3 0) (withRegs [(3, 1)]) = .next t ∧ t.reg vf ≠ (withRegs [(3, 1)]).reg vf) :=
  ⟨⟨_, rfl, by decide⟩, ⟨_, rfl, by decide⟩⟩

/-- The reset state with a full stack of the greatest return address. -/
def fullStack : State := { withSp 16 with stack := Vector.replicate 16 0x1000 }

theorem fullStack_inv : fullStack.Inv := by
  refine ⟨rfl, by decide, by decide, fun k => ?_, fun _ _ h => (nomatch h), fun _ => rfl⟩
  simp [fullStack, State.stackAt]

theorem witness_StepKeepsInvariant : fullStack.Inv ∧ ∃ t, step fullStack = .next t :=
  ⟨fullStack_inv, _, rfl⟩

/-- A running core, a waiting core, and a faulted one. -/
theorem witness_ResetRestoresEveryValue : (State.reset.setRun (.awaitingKey 3)).live = true ∧
    (State.reset.setRun (.faulted .memOob 0)).live = false ∧ (0x200 < fontBase ∨ fontBase + 80 ≤ 0x200) := by
  refine ⟨rfl, rfl, .inr ?_⟩
  have := Config.fontBaseChoice.isLt
  unfold fontBase Config.fontBase
  omega

/-- The largest image and one byte more; a closed window; and the core step that closes it. -/
theorem witness_LoadWritesTheImage : State.reset.live = true ∧ State.reset.loadOpen = true ∧
    (∃ rom : List Byte, 0x200 + rom.length = 4096) ∧ (∃ rom : List Byte, 0x200 + rom.length = 4097) ∧
    State.reset.closeLoad.loadOpen = false ∧ (State.reset.setRun (.faulted .memOob 0)).live = false ∧
    ∃ t, State.reset.run = .running ∧ cycle State.reset = .next t :=
  ⟨rfl, rfl, ⟨List.replicate 3584 7, by rw [List.length_replicate]⟩,
    ⟨List.replicate 3585 7, by rw [List.length_replicate]⟩, rfl, rfl, _, rfl, rfl⟩

theorem witness_MemoryFormIsCanonical : Memory.wf [(0x300, 5), (0xFFF, 1)] = true ∧ 0xFFF < 4096 := by
  decide

/-- A jump to itself at the last address it can stand at. -/
theorem witness_SelfJumpKeepsTheEnd :
    ((State.reset.setPc 0xFFE).setMem (oneWord 0xFFE 0x1FFE)).haltedAt 0xFFE := by
  refine ⟨rfl, by decide, by decide, by decide⟩

end Sys2Proof.Tests
end

/-!
PROOFS. The state (10_state.md): which instructions write which piece of it, the pixel query, memory's
canonical form, and the invariant that every step of every agent keeps.
-/

namespace Sys2Proof.Machine

/-! ## What an effect writes, one inversion lemma per piece of state (10_state.md R21 to R32) -/

/-- `I` after an effect: as before, or what ANNN, FX1E or FX29 puts there (R24). -/
theorem effect_i (i : Instr) (s : State) :
    (effect i s).i = s.i ∨
      (∃ nnn, i = .ldI nnn ∧ (effect i s).i = addrOperand nnn) ∨
      (∃ x, i = .addI x ∧ (effect i s).i = indexSum s.i (s.reg x)) ∨
      ∃ x d, i = .ldF x ∧ (effect i s).i = glyphAddr d := by
  cases i with
  | ldI nnn => exact .inr (.inl ⟨nnn, rfl, rfl⟩)
  | addI x => exact .inr (.inr (.inl ⟨x, rfl, rfl⟩))
  | ldF x =>
    cases hd : sixteenth (s.reg x) with
    | some d => exact .inr (.inr (.inr ⟨x, d, rfl, by simp [effect, hd]⟩))
    | none => exact .inl (by simp [effect, hd])
  | _ => exact .inl (by simp [effect, State.skipIf_eq, State.setRegThenFlag, drawEffect])

/-- The stack after an effect: as before, or CALL's push of `pc` (R25, R112). -/
theorem effect_stack (i : Instr) (s : State) :
    (effect i s).stack = s.stack ∨
      ∃ nnn, i = .call nnn ∧ (effect i s).stack = (s.push s.pc).stack := by
  cases i with
  | call nnn => exact .inr ⟨nnn, rfl, rfl⟩
  | _ => exact .inl (by simp [effect, State.skipIf_eq, State.setRegThenFlag, drawEffect])

/-- Only CALL and RET move `sp` (R26). -/
theorem effect_sp (i : Instr) (s : State) :
    (effect i s).sp = s.sp ∨ (∃ nnn, i = .call nnn) ∨ i = .ret := by
  cases i with
  | call nnn => exact .inr (.inl ⟨nnn, rfl⟩)
  | ret => exact .inr (.inr rfl)
  | _ => exact .inl (by simp [effect, State.skipIf_eq, State.setRegThenFlag, drawEffect])

/-- Only FX15 writes `DT` (R27). -/
theorem effect_dt (i : Instr) (s : State) : (effect i s).dt = s.dt ∨ ∃ x, i = .ldDtVx x := by
  cases i with
  | ldDtVx x => exact .inr ⟨x, rfl⟩
  | _ => exact .inl (by simp [effect, State.skipIf_eq, State.setRegThenFlag, drawEffect])

/-- Only FX18 writes `ST` (R27). -/
theorem effect_st (i : Instr) (s : State) : (effect i s).st = s.st ∨ ∃ x, i = .ldStVx x := by
  cases i with
  | ldStVx x => exact .inr ⟨x, rfl⟩
  | _ => exact .inl (by simp [effect, State.skipIf_eq, State.setRegThenFlag, drawEffect])

/-- Only CLS and DXYN write the screen (R30). -/
theorem effect_screen (i : Instr) (s : State) :
    (effect i s).screen = s.screen ∨ i = .cls ∨ ∃ x y n, i = .drw x y n := by
  cases i with
  | cls => exact .inr (.inl rfl)
  | drw x y n => exact .inr (.inr ⟨x, y, n, rfl⟩)
  | _ => exact .inl (by simp [effect, State.skipIf_eq, State.setRegThenFlag])

/-- Memory after an effect: as before, or the bytes FX33 or FX55 writes at `I` (20_memory.md R55). -/
theorem effect_mem (i : Instr) (s : State) :
    (effect i s).mem = s.mem ∨
      (∃ x, i = .ldB x ∧ (effect i s).mem = s.mem.writeRange s.dataAddr (bcdDigits (s.reg x))) ∨
      ∃ x, i = .storeRegs x ∧ (effect i s).mem = s.mem.writeRange s.dataAddr (s.regsUpTo x) := by
  cases i with
  | ldB x => exact .inr (.inl ⟨x, rfl, rfl⟩)
  | storeRegs x => exact .inr (.inr ⟨x, rfl, rfl⟩)
  | _ => exact .inl (by simp [effect, State.skipIf_eq, State.setRegThenFlag, drawEffect])

/-- No instruction writes the keypad (R32). -/
@[simp] theorem effect_keys (i : Instr) (s : State) : (effect i s).keys = s.keys := by
  cases i <;> simp [effect, State.skipIf_eq, State.setRegThenFlag, drawEffect]

/-- No instruction writes the key latch (R32). -/
@[simp] theorem effect_lastKey (i : Instr) (s : State) : (effect i s).lastKey = s.lastKey := by
  cases i <;> simp [effect, State.skipIf_eq, State.setRegThenFlag, drawEffect]

/-- No instruction's effect touches the load window (log 9). -/
@[simp] theorem effect_loadOpen (i : Instr) (s : State) : (effect i s).loadOpen = s.loadOpen := by
  cases i <;> simp [effect, State.skipIf_eq, State.setRegThenFlag, drawEffect]

/-- `run` after an effect: as before, or FX0A's key wait (R29). -/
theorem effect_run_cases (i : Instr) (s : State) :
    (effect i s).run = s.run ∨ ∃ x, i = .ldVxK x ∧ (effect i s).run = .awaitingKey x := by
  cases i with
  | ldVxK x => exact .inr ⟨x, rfl, rfl⟩
  | _ => exact .inl (by simp [effect, State.skipIf_eq, State.setRegThenFlag, drawEffect])

/-- A register after a result and a flag: only `x` and VF can differ (R131). -/
theorem State.reg_setRegThenFlag_cases (s : State) (x r : Reg) (b f : Byte) :
    (s.setRegThenFlag x b f).reg r = s.reg r ∨ r = x ∨ r = vf := by
  by_cases hv : r = vf
  · exact .inr (.inr hv)
  · by_cases hx : r = x
    · exact .inr (.inl hx)
    · exact .inl (by simp [State.reg_setRegThenFlag, hv, hx])

/-- A register after an effect: as before, unless it is a destination or VF as a flag (R21, R22). -/
theorem effect_reg (i : Instr) (s : State) (r : Reg) :
    (effect i s).reg r = s.reg r ∨ hasDest i r ∨ r = vf ∧ writesFlag i = true := by
  cases i with
  | ldImm x _ | addImm x _ | ldReg x _ | orReg x _ | andReg x _ | xorReg x _ | rnd x _ | ldVxDt x =>
    by_cases hx : r = x
    · exact .inr (.inl hx)
    · exact .inl (by simp [effect, State.reg_setReg_other, hx])
  | addReg x _ | subReg x _ | shr x _ | subnReg x _ | shl x _ =>
    exact (State.reg_setRegThenFlag_cases s x r _ _).imp_right (.imp_right (⟨·, rfl⟩))
  | drw x y n =>
    by_cases hv : r = vf
    · exact .inr (.inr ⟨hv, rfl⟩)
    · exact .inl (by simp [effect, drawEffect, State.reg_setReg_other, hv])
  | loadRegs x =>
    by_cases hx : r.val ≤ x.val
    · exact .inr (.inl hx)
    · exact .inl (by simp only [effect, State.reg_regsFromMem, if_neg hx])
  | _ => exact .inl (by simp [effect, State.skipIf_eq])

/-- Settles O47: what each piece can be after an effect, and a fault writes `run` and the events alone. -/
theorem onlyTheseInstructionsWrite : Obligations.OnlyTheseInstructionsWrite := by
  unfold Obligations.OnlyTheseInstructionsWrite
  intro i s t h
  rcases exec_next h with ⟨rfl, -⟩ | ⟨k, a, rfl, -⟩
  · refine ⟨fun hI hAdd hF => ?_, fun hCall => ⟨?_, fun hRet => ?_⟩, fun hDt => ?_, fun hSt => ?_,
      fun hCls hDrw => ?_, fun hB hStore => ?_, effect_keys i _, effect_lastKey i _, fun hK => ?_⟩
    · rcases effect_i i s.advance with he | ⟨n, e, -⟩ | ⟨x, e, -⟩ | ⟨x, -, e, -⟩
      · exact he
      · exact absurd e (hI n)
      · exact absurd e (hAdd x)
      · exact absurd e (hF x)
    · exact (effect_stack i s.advance).resolve_right fun ⟨n, e, _⟩ => hCall n e
    · exact (effect_sp i s.advance).resolve_right (not_or.mpr ⟨fun ⟨n, e⟩ => hCall n e, hRet⟩)
    · exact (effect_dt i s.advance).resolve_right fun ⟨x, e⟩ => hDt x e
    · exact (effect_st i s.advance).resolve_right fun ⟨x, e⟩ => hSt x e
    · exact (effect_screen i s.advance).resolve_right
        (not_or.mpr ⟨hCls, fun ⟨x, y, n, e⟩ => hDrw x y n e⟩)
    · exact (effect_mem i s.advance).resolve_right
        (not_or.mpr ⟨fun ⟨x, e, _⟩ => hB x e, fun ⟨x, e, _⟩ => hStore x e⟩)
    · exact .inl ((effect_run_cases i s.advance).resolve_right fun ⟨x, e, _⟩ => hK x e)
  · exact ⟨fun _ _ _ => rfl, fun _ => ⟨rfl, fun _ => rfl⟩, fun _ => rfl, fun _ => rfl,
      fun _ _ => rfl, fun _ _ => rfl, rfl, rfl, fun _ => .inr ⟨k, a, rfl⟩⟩

/-- Settles O48: an effect writes only destinations and VF as a flag, and a fault writes no register. -/
theorem onlyDestinationsAndFlagAreWritten : Obligations.OnlyDestinationsAndFlagAreWritten := by
  unfold Obligations.OnlyDestinationsAndFlagAreWritten
  intro i s t r h hne
  rcases exec_next h with ⟨rfl, -⟩ | ⟨k, a, rfl, -⟩
  · exact (effect_reg i s.advance r).resolve_left hne
  · exact absurd rfl hne

/-- Settles O49: nothing is listed, nothing pushed and nothing has faulted at reset (R40). -/
theorem resetMeetsInvariant : Obligations.ResetMeetsInvariant := by
  unfold Obligations.ResetMeetsInvariant
  refine ⟨rfl, by decide, by decide, fun k => ?_, fun _ _ h => (nomatch h), fun _ => rfl⟩
  simp [State.reset, State.stackAt]

/-! ## The pixel query (R30, R31) -/

/-- The pixel query lists the rows one after the other. -/
theorem State.pixels_eq_flatMap (s : State) :
    s.pixels = (s.screen.flatMap fun row => row.map pixelByte).toList := by
  simp [State.pixels, Vector.flatMap, Vector.toList]

/-- Settles O53: byte `y * 64 + x` of the rows listed one after the other is byte `x` of row `y`. -/
theorem pixelQueryIsRowMajor : Obligations.PixelQueryIsRowMajor := by
  unfold Obligations.PixelQueryIsRowMajor
  intro s
  rw [State.pixels_eq_flatMap]
  refine ⟨Vector.length_toList, fun x y => ?_⟩
  have hlt : y.val * 64 + x.val < 32 * 64 := by omega
  have hrow : (y.val * 64 + x.val) / 64 = y.val := by omega
  have hcol : (y.val * 64 + x.val) % 64 = x.val := by omega
  rw [Vector.getElem?_toList, Vector.getElem?_eq_getElem hlt, Vector.getElem_flatMap]
  simp only [Vector.getElem_map, hrow, hcol]
  rfl

/-! ## The canonical form (R33, log 11) -/

/-- A memory in canonical form does not read as its reset contents at its first listed address. -/
theorem Memory.read_first_ne {lo : Nat} {c : Host.Cell} {m : Memory}
    (hm : Memory.wfFrom lo (c :: m)) : Memory.read (c :: m) c.1 ≠ Memory.unlisted c.1 := by
  obtain ⟨-, -, hne, -⟩ := (Memory.wfFrom_cons lo c m).mp hm
  simpa [Memory.read] using hne

/-- In canonical form, an address that reads otherwise than its reset contents is not below the first
listed one. -/
theorem Memory.first_le_of_read_ne {lo : Nat} {c : Host.Cell} {m : Memory}
    (hm : Memory.wfFrom lo (c :: m)) {a : Nat}
    (ha : Memory.read (c :: m) a ≠ Memory.unlisted a) : c.1 ≤ a := by
  obtain ⟨-, hin, hne, htail⟩ := (Memory.wfFrom_cons lo c m).mp hm
  have hc : Memory.wfFrom c.1 (c :: m) := (Memory.wfFrom_cons _ c m).mpr ⟨le_refl _, hin, hne, htail⟩
  by_contra hlt
  exact ha (Memory.read_below hc (by omega))

/-- Two memories in canonical form that read the same everywhere are equal data: the lower of their first
addresses would read as its reset contents in the other. -/
theorem Memory.eq_of_read_eq {lo : Nat} {m m' : Memory} (hm : m.wfFrom lo) (hm' : m'.wfFrom lo)
    (h : ∀ a, m.read a = m'.read a) : m = m' := by
  induction m generalizing lo m' with
  | nil =>
    cases m' with
    | nil => rfl
    | cons d m' => exact absurd (h d.1).symm (Memory.read_first_ne hm')
  | cons c m ih =>
    cases m' with
    | nil => exact absurd (h c.1) (Memory.read_first_ne hm)
    | cons d m' =>
      obtain ⟨-, -, -, hmt⟩ := (Memory.wfFrom_cons lo c m).mp hm
      obtain ⟨-, -, -, hmt'⟩ := (Memory.wfFrom_cons lo d m').mp hm'
      have hcd : c.1 = d.1 := le_antisymm
        (Memory.first_le_of_read_ne hm (h d.1 ▸ Memory.read_first_ne hm'))
        (Memory.first_le_of_read_ne hm' (h c.1 ▸ Memory.read_first_ne hm))
      have hval : c.2 = d.2 := by simpa [Memory.read, hcd] using h c.1
      have hcell : c = d := Prod.ext hcd hval
      subst hcell
      rw [ih hmt hmt' fun a => ?_]
      by_cases ha : a < c.1 + 1
      · rw [Memory.read_below hmt ha, Memory.read_below hmt' ha]
      · have hne : c.1 ≠ a := by omega
        simpa [Memory.read, hne] using h a

/-- Settles O55: both operations of a write keep the form, and the form has one datum per contents. -/
theorem memoryFormIsCanonical : Obligations.MemoryFormIsCanonical := by
  unfold Obligations.MemoryFormIsCanonical
  exact ⟨fun m a x hm ha => Memory.wf_write hm ha x, fun m m' hm hm' h =>
    Memory.eq_of_read_eq ((Memory.wf_iff m).mp hm) ((Memory.wf_iff m').mp hm') h⟩

/-! ## The invariant, under each update that the steps make -/

/-- While the core is live there is no fault to record. -/
theorem State.faultRecorded_of_live {s : State} (h : s.live = true) : s.faultRecorded :=
  fun k a e => absurd e ((State.live_iff s).mp h k a)

theorem State.inv_setSchedule {s : State} (h : s.Inv) (l : List Action) : (s.setSchedule l).Inv :=
  { h with }

theorem State.inv_setDraw {s : State} (h : s.Inv) (b : Bool) : (s.setDraw b).Inv := { h with }

theorem State.inv_setDt {s : State} (h : s.Inv) (b : Byte) : (s.setDt b).Inv := { h with }

theorem State.inv_setSt {s : State} (h : s.Inv) (b : Byte) : (s.setSt b).Inv := { h with }

theorem State.inv_setReg {s : State} (h : s.Inv) (x : Reg) (b : Byte) : (s.setReg x b).Inv :=
  { h with }

theorem State.inv_setKey {s : State} (h : s.Inv) (k : KeyIndex) (b : Bool) : (s.setKey k b).Inv :=
  { h with }

theorem State.inv_setLastKey {s : State} (h : s.Inv) (k : Option KeyIndex) :
    (s.setLastKey k).Inv := { h with }

theorem State.inv_setMem {s : State} (h : s.Inv) {m : Memory} (hm : m.wf = true) :
    (s.setMem m).Inv := { h with memWf := hm }

theorem State.inv_closeLoad {s : State} (h : s.Inv) : s.closeLoad.Inv :=
  { h with loadRunning := fun e => nomatch e }

/-- A core that goes back to `Running` has no fault to record and may have its load window open. -/
theorem State.inv_setRun_running {s : State} (h : s.Inv) : (s.setRun .running).Inv :=
  { h with recorded := State.faultRecorded_of_live rfl, loadRunning := fun _ => rfl }

/-- While the core is live, an event more is sent and no record speaks of it. -/
theorem State.inv_emit {s : State} (h : s.Inv) (hl : s.live = true) (e : Event) : (s.emit e).Inv :=
  { h with recorded := State.faultRecorded_of_live hl }

/-- A fault whose record is right, raised with the load window closed (R190, R191). -/
theorem State.inv_raise {s : State} (h : s.Inv) (hc : s.loadOpen = false) {k : FaultKind} {a : Word}
    (ha : a = if k = .memOob then s.i else s.pc) :
    ((s.setRun (.faulted k a)).emit (.fatal k a)).Inv :=
  { h with
    recorded := by
      rintro k' a' ⟨⟩
      exact ⟨ha, List.getLast?_concat⟩
    loadRunning := fun ho => absurd (hc.symm.trans ho) (by decide) }

/-! ## The invariant, under a completed instruction -/

/-- No effect takes `I` out of memory (R24, R150 to R152). -/
theorem effect_i_lt {s : State} (h : s.i.toNat < 4096) (i : Instr) : (effect i s).i.toNat < 4096 := by
  rcases effect_i i s with e | ⟨nnn, -, e⟩ | ⟨x, -, e⟩ | ⟨x, d, -, e⟩ <;> rw [e]
  · exact h
  · rw [addrOperand_toNat]; exact nnn.isLt
  · rw [indexSum_toNat]; omega
  · have := fontBase_le
    rw [glyphAddr_toNat]; omega

/-- No effect puts a stack entry above 0x1000, the greatest advanced `pc` (R25, R112). -/
theorem effect_stackAt_le {s : State} (h : ∀ k, (s.stackAt k).toNat ≤ 4096)
    (hpc : s.pc.toNat ≤ 4096) (i : Instr) (k : Fin 16) : ((effect i s).stackAt k).toNat ≤ 4096 := by
  rcases effect_stack i s with e | ⟨nnn, -, e⟩
  · rw [State.stackAt, e]; exact h k
  · rw [State.stackAt, e, ← State.stackAt, State.stackAt_push]
    split
    · exact hpc
    · exact h k

/-- An effect whose access is in bounds keeps memory's canonical form (R51, log 11). -/
theorem effect_mem_wf {s : State} (h : s.mem.wf = true) {i : Instr}
    (hn : ∀ k a, ¬ faultDueAt i s k a) : (effect i s.advance).mem.wf = true := by
  rcases effect_mem i s.advance with e | ⟨x, rfl, e⟩ | ⟨x, rfl, e⟩ <;> rw [e]
  · exact h
  · have hin : ¬ s.i.toNat + 3 > 4096 := fun hgt => hn .memOob s.i ⟨rfl, rfl, hgt⟩
    exact Memory.wf_writeRange h (Nat.le_of_not_gt hin)
  · have hin : ¬ s.i.toNat + x.val + 1 > 4096 := fun hgt => hn .memOob s.i ⟨rfl, rfl, hgt⟩
    refine Memory.wf_writeRange h ?_
    rw [State.length_regsUpTo]
    exact Nat.le_of_not_gt hin

/-- `pc` is inside memory after the wrap, whatever it was before (R96). -/
theorem wrapAddr_lt (a : Word) : (wrapAddr a).toNat < 4096 := by
  rw [wrapAddr_toNat]; omega

/-- `pc` after the advance, when the instruction lies inside memory (R90). -/
theorem State.advance_pc_le {s : State} (h : s.pc.toNat + 2 ≤ 4096) : s.advance.pc.toNat ≤ 4096 := by
  have : (s.pc + 2).toNat = s.pc.toNat + 2 := by bv_omega
  exact this.trans_le h

/-- A completed instruction keeps the invariant (R90). -/
theorem State.inv_effect {s : State} (h : s.Inv) (hr : s.run = .running) (hc : s.loadOpen = false)
    (hp : s.pc.toNat + 2 ≤ 4096) {i : Instr} (hn : ∀ k a, ¬ faultDueAt i s k a) :
    (effect i s.advance).wrapPc.Inv where
  memWf := effect_mem_wf h.memWf hn
  pcInside := wrapAddr_lt _
  iInside := effect_i_lt (s := s.advance) h.iInside i
  stackInside := effect_stackAt_le (s := s.advance) h.stackInside (State.advance_pc_le hp) i
  recorded := by
    refine State.faultRecorded_of_live ((State.live_iff _).mpr fun k a e => ?_)
    rw [State.wrapPc_run] at e
    rcases effect_run i s.advance with hrun | ⟨x, hrun⟩
    · exact nomatch hr.symm.trans (hrun.symm.trans e)
    · exact nomatch hrun.symm.trans e
  loadRunning ho := by
    have : s.loadOpen = true := (effect_loadOpen i s.advance).symm.trans ho
    exact absurd (hc.symm.trans this) (by decide)

/-- A tolerated unknown word keeps the invariant (R94). -/
theorem State.inv_unknown {s : State} (h : s.Inv) (hr : s.run = .running) (e : Event) :
    (s.advance.emit e).wrapPc.Inv :=
  { h with
    pcInside := wrapAddr_lt _
    recorded := State.faultRecorded_of_live (by simp [State.live, hr]) }

/-! ## The invariant, under each agent's step -/

/-- A step in `Running`, the load window closed, keeps the invariant. -/
theorem runningCycle_keeps_inv {s t : State} (h : s.Inv) (hr : s.run = .running)
    (hc : s.loadOpen = false) (ht : runningCycle s = .next t) : t.Inv := by
  rcases runningCycle_next ht with ⟨i, hp, -, rfl, hn⟩ | ⟨i, k, a, -, -, rfl, hd⟩ | ⟨-, rfl⟩ |
    ⟨w, -, -, rfl⟩
  · exact State.inv_effect h hr hc hp hn
  · exact State.inv_raise h hc (faultDueAt_record hd).1
  · exact State.inv_raise h hc rfl
  · exact State.inv_unknown h hr _

/-- The core's cycle step keeps the invariant (R90, R91). -/
theorem cycle_keeps_inv {s t : State} (h : s.Inv) (ht : cycle s = .next t) : t.Inv := by
  cases hr : s.run with
  | running =>
    rw [cycle_of_running hr] at ht
    exact runningCycle_keeps_inv (State.inv_closeLoad h) hr rfl ht
  | awaitingKey r =>
    simp only [cycle, hr, Host.Outcome.next.injEq] at ht
    exact ht ▸ State.inv_setDraw h false
  | faulted k a => simp [cycle, hr] at ht

/-- The reset values meet the invariant, whatever the model's own fields go on with (R40, log 16). -/
theorem State.inv_resetBlock (s : State) : s.resetBlock.Inv :=
  { resetMeetsInvariant with recorded := State.faultRecorded_of_live rfl }

/-- The end of a key wait keeps the invariant (R167). -/
theorem State.inv_resolveWait {s : State} (h : s.Inv) (k : KeyIndex) : (s.resolveWait k).Inv := by
  unfold State.resolveWait
  split
  · exact h
  · exact State.inv_setRun_running (State.inv_setReg h _ _)
  · exact h

/-- A sound-timer tick's event keeps the invariant, since the core is live (R165). -/
theorem State.inv_beepIfLast {s : State} (h : s.Inv) (hl : s.live = true) : s.beepIfLast.Inv := by
  unfold State.beepIfLast
  split
  · exact State.inv_emit h hl .beep
  · exact h

/-- Every action of every agent keeps the invariant (R97). -/
theorem act_keeps_inv {s t : State} (a : Action) (h : s.Inv) (ht : act a s = .next t) : t.Inv := by
  cases a with
  | cycle => exact cycle_keeps_inv h ht
  | reset =>
    obtain ⟨-, rfl⟩ := (hostReset_eq_next s t).mp ht
    exact State.inv_resetBlock s
  | load rom =>
    obtain ⟨-, -, hfits, rfl⟩ := (hostLoad_eq_next rom s t).mp ht
    exact State.inv_setMem h (Memory.wf_writeRange h.memWf hfits)
  | keyDown k =>
    obtain ⟨-, rfl⟩ := (hostKeyDown_eq_next k s t).mp ht
    exact State.inv_resolveWait (State.inv_setLastKey (State.inv_setKey h k true) _) k
  | keyUp k =>
    obtain ⟨-, rfl⟩ := (hostKeyUp_eq_next k s t).mp ht
    exact State.inv_setKey h k false
  | tickDt =>
    obtain ⟨-, -, rfl⟩ := (tickDt_eq_next s t).mp ht
    exact State.inv_setDt h _
  | tickSt =>
    obtain ⟨hl, -, rfl⟩ := (tickSt_eq_next s t).mp ht
    exact State.inv_setSt (State.inv_beepIfLast h hl) _

/-- Settles O50: a step is one agent's action on the state with the schedule moved on. -/
theorem stepKeepsInvariant : Obligations.StepKeepsInvariant := by
  unfold Obligations.StepKeepsInvariant
  intro s t h ht
  rw [step_eq] at ht
  exact act_keeps_inv _ (State.inv_setSchedule h _) ht

end Sys2Proof.Machine

/-!
PROOFS. Memory (20_memory.md): reads after writes, the big-endian fetch, and code that an instruction
has written.
-/

namespace Sys2Proof.Machine

/-- Settles O54: the address read is the one written or another one. -/
theorem memoryReadsLastWrite : Obligations.MemoryReadsLastWrite := by
  unfold Obligations.MemoryReadsLastWrite
  intro m a b x
  split
  · next hb => rw [hb, Memory.read_write_same]
  · next hb => exact Memory.read_write_other m hb x

/-- Settles O13: a fetch is bounded by memory's end alone and puts the lower address's byte high. -/
theorem fetchedWordIsBigEndian : Obligations.FetchedWordIsBigEndian := by
  unfold Obligations.FetchedWordIsBigEndian
  intro s hpc
  exact ⟨_, (State.fetch_eq_some s _).mpr ⟨hpc, rfl⟩, wordOfBytes_toNat _ _⟩

/-- After FX55's effect, the byte at `I + r` is `V[r]`, for every stored register (R154). -/
theorem read_effect_storeRegs (s : State) {x r : Reg} (hr : r.val ≤ x.val) :
    (effect (.storeRegs x) s).mem.read (s.dataAddr + r.val) = s.reg r := by
  rw [effect, State.setMem_mem, Memory.read_writeRange, if_pos (Nat.le_add_right _ _),
    Nat.add_sub_cancel_left, State.getElem?_regsUpTo s x r hr, Option.getD_some]

/-- The bytes FX55 leaves at `I` on, when the span it writes lies inside memory (R154). -/
theorem read_of_exec_storeRegs {x : Reg} {s t : State} (ht : exec (.storeRegs x) s = .next t)
    (hin : s.i.toNat + x.val + 1 ≤ 4096) {r : Reg} (hr : r.val ≤ x.val) :
    t.mem.read (s.dataAddr + r.val) = s.reg r := by
  rcases exec_next ht with ⟨rfl, -⟩ | ⟨k, a, -, -, -, hout⟩
  · exact read_effect_storeRegs s.advance hr
  · exact absurd hin (Nat.not_le_of_gt hout)

/-- Settles O14: both bytes of the fetched word are among those FX55 has stored. -/
theorem storedWordIsFetchedNext : Obligations.StoredWordIsFetchedNext := by
  unfold Obligations.StoredWordIsFetchedNext
  intro x k s t ht hin hpc hk
  have hsucc : (k + 1).val = k.val + 1 := Fin.val_add_one_of_lt (show k.val < 15 by omega)
  have hhi : t.mem.read t.pc.toNat = s.reg k :=
    hpc ▸ read_of_exec_storeRegs ht hin (by omega)
  have hlo : t.mem.read (t.pc.toNat + 1) = s.reg (k + 1) := by
    rw [hpc, Nat.add_assoc, ← hsucc]
    exact read_of_exec_storeRegs ht hin (hsucc ▸ hk)
  have hbound : t.pc.toNat + 2 ≤ 4096 := by
    rw [hpc, State.dataAddr]; omega
  exact (State.fetch_eq_some t _).mpr ⟨hbound, by rw [hhi, hlo]⟩

end Sys2Proof.Machine

/-!
PROOFS. Encoding (30_encoding.md): `decode` inverts `encode` on the well-formed instructions, and the
rows of the opcode map, SYS and R76's table share out the words. Of a row it is shown that its
instruction encodes to the selected word; that the word decodes to it follows by the round trip.
-/

namespace Sys2Proof.Machine

/-! ## The round trip from an instruction (R74, R75) -/

/-- Settles O2: each opcode's own round trip. -/
theorem decodeOfEncodeIsIdentity : Obligations.DecodeOfEncodeIsIdentity := by
  unfold Obligations.DecodeOfEncodeIsIdentity
  intro i
  cases i with
  | sys nnn => exact Laws.RoundTrip.sys nnn
  | cls => exact Laws.RoundTrip.cls
  | ret => exact Laws.RoundTrip.ret
  | jp nnn => exact Laws.RoundTrip.jp nnn
  | call nnn => exact Laws.RoundTrip.call nnn
  | seImm x kk => exact Laws.RoundTrip.seImm x kk
  | sneImm x kk => exact Laws.RoundTrip.sneImm x kk
  | seReg x y => exact Laws.RoundTrip.seReg x y
  | ldImm x kk => exact Laws.RoundTrip.ldImm x kk
  | addImm x kk => exact Laws.RoundTrip.addImm x kk
  | ldReg x y => exact Laws.RoundTrip.ldReg x y
  | orReg x y => exact Laws.RoundTrip.orReg x y
  | andReg x y => exact Laws.RoundTrip.andReg x y
  | xorReg x y => exact Laws.RoundTrip.xorReg x y
  | addReg x y => exact Laws.RoundTrip.addReg x y
  | subReg x y => exact Laws.RoundTrip.subReg x y
  | shr x y => exact Laws.RoundTrip.shr x y
  | subnReg x y => exact Laws.RoundTrip.subnReg x y
  | shl x y => exact Laws.RoundTrip.shl x y
  | sneReg x y => exact Laws.RoundTrip.sneReg x y
  | ldI nnn => exact Laws.RoundTrip.ldI nnn
  | jpV0 nnn => exact Laws.RoundTrip.jpV0 nnn
  | rnd x kk => exact Laws.RoundTrip.rnd x kk
  | drw x y n => exact Laws.RoundTrip.drw x y n
  | skp x => exact Laws.RoundTrip.skp x
  | sknp x => exact Laws.RoundTrip.sknp x
  | ldVxDt x => exact Laws.RoundTrip.ldVxDt x
  | ldVxK x => exact Laws.RoundTrip.ldVxK x
  | ldDtVx x => exact Laws.RoundTrip.ldDtVx x
  | ldStVx x => exact Laws.RoundTrip.ldStVx x
  | addI x => exact Laws.RoundTrip.addI x
  | ldF x => exact Laws.RoundTrip.ldF x
  | ldB x => exact Laws.RoundTrip.ldB x
  | storeRegs x => exact Laws.RoundTrip.storeRegs x
  | loadRegs x => exact Laws.RoundTrip.loadRegs x

/-! ## What a row makes of the words it selects (R70, R74) -/

/-- The word is the instruction's own: it is the encoding, and the instruction has one (R75). -/
def IsWordOf (w : Word) (i : Instr) : Prop := encode i = w ∧ i.wellFormed = true

theorem IsWordOf.decode_eq {w : Word} {i : Instr} (h : IsWordOf w i) : decode w = .instr i := by
  obtain ⟨rfl, hwf⟩ := h
  exact decodeOfEncodeIsIdentity i hwf

/-- Every word the row selects is the word of the instruction the row makes of it. -/
def RowEncodes (r : OpcodeRow) : Prop := ∀ w : Word, r.selects w → IsWordOf w (r.instr w)

/-- A row whose mask takes the whole word. -/
theorem rowEncodes_word {c : Word} {i : Instr} (h : IsWordOf c i) :
    RowEncodes (0xFFFF, c, fun _ => i) := by
  intro w hw
  have hc : w = c := BitVec.and_allOnes.symm.trans hw
  exact hc ▸ h

/-- A row selected by the family, with an address. -/
theorem rowEncodes_nnn {c : Word} {f : Addr12 → Instr}
    (he : ∀ nnn, IsWordOf (packNNN (opField c) nnn) (f nnn)) :
    RowEncodes (0xF000, c, fun w => f (nnnField w)) := by
  intro w hw
  have h := he (nnnField w)
  rwa [← opField_of_mask (m := 0xF000) hw rfl, packNNN_fields] at h

/-- A row selected by the family, with a register and a byte. -/
theorem rowEncodes_xkk {c : Word} {f : Reg → Byte → Instr}
    (he : ∀ x kk, IsWordOf (packXKK (opField c) x kk) (f x kk)) :
    RowEncodes (0xF000, c, fun w => f (xField w) (kkField w)) := by
  intro w hw
  have h := he (xField w) (kkField w)
  rwa [← opField_of_mask (m := 0xF000) hw rfl, packXKK_fields] at h

/-- A row selected by the family, with two registers and a nibble. -/
theorem rowEncodes_xyn {c : Word} {f : Reg → Reg → Nibble → Instr}
    (he : ∀ x y n, IsWordOf (packXYN (opField c) x y n) (f x y n)) :
    RowEncodes (0xF000, c, fun w => f (xField w) (yField w) (nField w)) := by
  intro w hw
  have h := he (xField w) (yField w) (nField w)
  rwa [← opField_of_mask (m := 0xF000) hw rfl, packXYN_fields] at h

/-- A row selected by the family and `n`, with two registers. -/
theorem rowEncodes_xy {c : Word} {f : Reg → Reg → Instr}
    (he : ∀ x y, IsWordOf (packXYN (opField c) x y (nField c)) (f x y)) :
    RowEncodes (0xF00F, c, fun w => f (xField w) (yField w)) := by
  intro w hw
  have h := he (xField w) (yField w)
  rwa [← opField_of_mask (m := 0xF00F) hw rfl, ← nField_of_mask (m := 0xF00F) hw rfl,
    packXYN_fields] at h

/-- A row selected by the family and `kk`, with a register. -/
theorem rowEncodes_x {c : Word} {f : Reg → Instr}
    (he : ∀ x, IsWordOf (packXKK (opField c) x (kkField c)) (f x)) :
    RowEncodes (0xF0FF, c, fun w => f (xField w)) := by
  intro w hw
  have h := he (xField w)
  rwa [← opField_of_mask (m := 0xF0FF) hw rfl, ← kkField_of_mask (m := 0xF0FF) hw rfl,
    packXKK_fields] at h

theorem rows2to10_encode : ∀ r ∈ rows2to10, RowEncodes r := by
  simp only [rows2to10, List.forall_mem_cons]
  exact ⟨rowEncodes_word ⟨rfl, rfl⟩, rowEncodes_word ⟨rfl, rfl⟩,
    rowEncodes_nnn fun _ => ⟨rfl, rfl⟩, rowEncodes_nnn fun _ => ⟨rfl, rfl⟩,
    rowEncodes_xkk fun _ _ => ⟨rfl, rfl⟩, rowEncodes_xkk fun _ _ => ⟨rfl, rfl⟩,
    rowEncodes_xy fun _ _ => ⟨rfl, rfl⟩,
    rowEncodes_xkk fun _ _ => ⟨rfl, rfl⟩, rowEncodes_xkk fun _ _ => ⟨rfl, rfl⟩,
    List.forall_mem_nil _⟩

theorem rows11to20_encode : ∀ r ∈ rows11to20, RowEncodes r := by
  simp only [rows11to20, List.forall_mem_cons]
  refine ⟨?_, ?_, ?_, ?_, ?_, ?_, ?_, ?_, ?_, ?_, List.forall_mem_nil _⟩
  all_goals exact rowEncodes_xy fun _ _ => ⟨rfl, rfl⟩

theorem rows21to35_encode : ∀ r ∈ rows21to35, RowEncodes r := by
  simp only [rows21to35, List.forall_mem_cons]
  refine ⟨rowEncodes_nnn fun _ => ⟨rfl, rfl⟩, rowEncodes_nnn fun _ => ⟨rfl, rfl⟩,
    rowEncodes_xkk fun _ _ => ⟨rfl, rfl⟩, rowEncodes_xyn fun _ _ _ => ⟨rfl, rfl⟩,
    ?_, ?_, ?_, ?_, ?_, ?_, ?_, ?_, ?_, ?_, ?_, List.forall_mem_nil _⟩
  all_goals exact rowEncodes_x fun _ => ⟨rfl, rfl⟩

/-- Each row of the map, SYS apart, encodes the words it selects. -/
theorem opcodeRows_encode : ∀ r ∈ opcodeRows, RowEncodes r :=
  List.forall_mem_append.mpr
    ⟨List.forall_mem_append.mpr ⟨rows2to10_encode, rows11to20_encode⟩, rows21to35_encode⟩

/-- Each row of the map, SYS apart, decodes the words it selects. -/
theorem rowDecodes_of_mem {r : OpcodeRow} (hr : r ∈ opcodeRows) :
    rowDecodes r.1 r.2.1 r.instr :=
  fun w hw => (opcodeRows_encode r hr w hw).decode_eq

/-- A word of family 0 that is neither CLS nor RET is SYS's (R75). -/
theorem isWordOf_sys {w : Word} (hop : opField w = 0) (hcls : w ≠ 0x00E0) (hret : w ≠ 0x00EE) :
    IsWordOf w (.sys (nnnField w)) := by
  have hw : packNNN 0 (nnnField w) = w := by rw [← hop, packNNN_fields]
  have hne {a : Addr12} (ha : w ≠ packNNN 0 a) : nnnField w ≠ a := fun h => ha (h ▸ hw.symm)
  refine ⟨hw, ?_⟩
  rw [Instr.wellFormed, Bool.and_eq_true, sysIsNotCls, sysIsNotRet, bne_iff_ne, bne_iff_ne]
  exact ⟨hne hcls, hne hret⟩

/-! ## The words that are no opcode (R76) -/

/-- The word is listed in R76's table. -/
def Unassigned (w : Word) : Prop :=
  (opField w = 0x5 ∧ nField w ≠ 0) ∨
  (opField w = 0x8 ∧ nField w ∈ [0x8, 0x9, 0xA, 0xB, 0xC, 0xD, 0xF]) ∨
  (opField w = 0x9 ∧ nField w ≠ 0) ∨
  (opField w = 0xE ∧ kkField w ∉ [0x9E, 0xA1]) ∨
  (opField w = 0xF ∧ kkField w ∉ [0x07, 0x0A, 0x15, 0x18, 0x1E, 0x29, 0x33, 0x55, 0x65])

theorem decodeFamily8_unassigned {w : Word}
    (h : nField w ∈ [0x8, 0x9, 0xA, 0xB, 0xC, 0xD, 0xF]) : decodeFamily8 w = .unknown w := by
  simp only [List.mem_cons, List.not_mem_nil, or_false] at h
  rcases h with h | h | h | h | h | h | h <;> simp [decodeFamily8, h]

theorem decodeFamilyE_unassigned {w : Word} (h : kkField w ∉ [0x9E, 0xA1]) :
    decodeFamilyE w = .unknown w := by
  simp only [List.mem_cons, List.not_mem_nil, or_false, not_or, ← BitVec.toNat_inj,
    BitVec.ofNat_eq_ofNat, BitVec.toNat_ofNat, Nat.reduceMod, Nat.reducePow] at h
  simp [decodeFamilyE, h]

theorem decodeFamilyF_unassigned {w : Word}
    (h : kkField w ∉ [0x07, 0x0A, 0x15, 0x18, 0x1E, 0x29, 0x33, 0x55, 0x65]) :
    decodeFamilyF w = .unknown w := by
  simp only [List.mem_cons, List.not_mem_nil, or_false, not_or, ← BitVec.toNat_inj,
    BitVec.ofNat_eq_ofNat, BitVec.toNat_ofNat, Nat.reduceMod, Nat.reducePow] at h
  simp [decodeFamilyF, h]

/-- A word of R76's table decodes to `unknown`, with the raw word. -/
theorem Unassigned.decode_eq {w : Word} (h : Unassigned w) : decode w = .unknown w := by
  rcases h with ⟨hop, h⟩ | ⟨hop, h⟩ | ⟨hop, h⟩ | ⟨hop, h⟩ | ⟨hop, h⟩ <;> rw [decode, hop]
  · exact if_neg h
  · exact decodeFamily8_unassigned h
  · exact if_neg h
  · exact decodeFamilyE_unassigned h
  · exact decodeFamilyF_unassigned h

/-! ## Every word has its place (R75) -/

/-- Bits that the mask leaves out are cleared. -/
theorem extract_and_cleared {m : Word} {b l : Nat} (w : Word) (h : m.extractLsb' b l = 0) :
    (w &&& m).extractLsb' b l = 0 := by
  rw [BitVec.extractLsb'_and, h]
  exact BitVec.and_zero

/-- The mask that keeps the family. -/
theorem and_F000 (w : Word) : w &&& 0xF000 = packNNN (opField w) 0 := by
  have hop : opField w = opField (w &&& 0xF000) := opField_of_mask rfl rfl
  have hnnn : nnnField (w &&& 0xF000) = 0 := extract_and_cleared w rfl
  rw [hop, ← hnnn, packNNN_fields]

/-- The mask that keeps the family and `n`. -/
theorem and_F00F (w : Word) : w &&& 0xF00F = packXYN (opField w) 0 0 (nField w) := by
  have hop : opField w = opField (w &&& 0xF00F) := opField_of_mask rfl rfl
  have hx : xField (w &&& 0xF00F) = 0 := congrArg regOfNibble (extract_and_cleared w rfl)
  have hy : yField (w &&& 0xF00F) = 0 := congrArg regOfNibble (extract_and_cleared w rfl)
  have hn : nField w = nField (w &&& 0xF00F) := nField_of_mask rfl rfl
  calc w &&& 0xF00F
      = packXYN (opField (w &&& 0xF00F)) (xField (w &&& 0xF00F)) (yField (w &&& 0xF00F))
          (nField (w &&& 0xF00F)) := (packXYN_fields _).symm
    _ = packXYN (opField w) 0 0 (nField w) := by rw [← hop, hx, hy, ← hn]

/-- The mask that keeps the family and `kk`. -/
theorem and_F0FF (w : Word) : w &&& 0xF0FF = packXKK (opField w) 0 (kkField w) := by
  have hop : opField w = opField (w &&& 0xF0FF) := opField_of_mask rfl rfl
  have hx : xField (w &&& 0xF0FF) = 0 := congrArg regOfNibble (extract_and_cleared w rfl)
  have hkk : kkField w = kkField (w &&& 0xF0FF) := kkField_of_mask rfl rfl
  rw [hop, ← hx, hkk, packXKK_fields]

/-- SYS's row selects its family (R74). -/
theorem rowSys_selects_iff {r : OpcodeRow} (hr : r ∈ rowSys) (w : Word) :
    r.selects w ↔ opField w = 0 := by
  obtain rfl := List.mem_singleton.mp hr
  refine ⟨fun h => opField_of_mask h rfl, fun h => ?_⟩
  rw [OpcodeRow.selects, and_F000, h]
  rfl

/-- Some row of the map, SYS apart, selects the word. -/
def HasRow (w : Word) : Prop := ∃ r ∈ opcodeRows, r.selects w

/-- The mask and match columns of the map, SYS apart. -/
def maskMatches : List (Word × Word) := opcodeRows.map fun r => (r.1, r.2.1)

/-- A word has a row when the map holds a mask with what it keeps of the word as match. -/
theorem hasRow_of_mem {w : Word} (m : Word) (h : (m, w &&& m) ∈ maskMatches) : HasRow w := by
  obtain ⟨r, hr, hmc⟩ := List.mem_map.mp h
  obtain ⟨rfl, hc⟩ := Prod.mk.inj hmc
  exact ⟨r, hr, hc.symm⟩

/-- The families that one row takes whole. -/
theorem wholeFamily_mem :
    ∀ op ∈ ([0x1, 0x2, 0x3, 0x4, 0x6, 0x7, 0xA, 0xB, 0xC, 0xD] : List Nibble),
      (0xF000, packNNN op 0) ∈ maskMatches := by decide

/-- Family 8 has a row for every `n` that R76 does not list. -/
theorem family8_mem : ∀ n : Nibble, n ∉ [0x8, 0x9, 0xA, 0xB, 0xC, 0xD, 0xF] →
    (0xF00F, packXYN 0x8 0 0 n) ∈ maskMatches := by decide

/-- Family E has a row for each of its two `kk`. -/
theorem familyE_mem : ∀ kk ∈ ([0x9E, 0xA1] : List Byte),
    (0xF0FF, packXKK 0xE 0 kk) ∈ maskMatches := by decide

/-- Family F has a row for each of its nine `kk`. -/
theorem familyF_mem :
    ∀ kk ∈ ([0x07, 0x0A, 0x15, 0x18, 0x1E, 0x29, 0x33, 0x55, 0x65] : List Byte),
      (0xF0FF, packXKK 0xF 0 kk) ∈ maskMatches := by decide

/-- The families other than 0, those taken whole first. -/
theorem family_cases : ∀ op : Nibble, op ≠ 0 →
    op ∈ [0x1, 0x2, 0x3, 0x4, 0x6, 0x7, 0xA, 0xB, 0xC, 0xD] ∨
      op = 0x5 ∨ op = 0x8 ∨ op = 0x9 ∨ op = 0xE ∨ op = 0xF := by decide

/-- Outside family 0, a word that R76 does not list has a row. -/
theorem hasRow_of_not_unassigned {w : Word} (hop : opField w ≠ 0) (hu : ¬ Unassigned w) :
    HasRow w := by
  simp only [Unassigned, not_or, not_and, not_not] at hu
  obtain ⟨h5, h8, h9, hE, hF⟩ := hu
  rcases family_cases _ hop with h | h | h | h | h | h
  · exact hasRow_of_mem 0xF000 (and_F000 w ▸ wholeFamily_mem _ h)
  · exact hasRow_of_mem 0xF00F (by rw [and_F00F, h, h5 h]; decide)
  · exact hasRow_of_mem 0xF00F (by rw [and_F00F, h]; exact family8_mem _ (h8 h))
  · exact hasRow_of_mem 0xF00F (by rw [and_F00F, h, h9 h]; decide)
  · exact hasRow_of_mem 0xF0FF (by rw [and_F0FF, h]; exact familyE_mem _ (hE h))
  · exact hasRow_of_mem 0xF0FF (by rw [and_F0FF, h]; exact familyF_mem _ (hF h))

/-- SYS takes the words of its family that have no row (R75). -/
theorem isWordOf_sys_of_noRow {w : Word} (hop : opField w = 0) (hno : ¬ HasRow w) :
    IsWordOf w (.sys (nnnField w)) := by
  refine isWordOf_sys hop ?_ ?_ <;> rintro rfl <;> exact hno (hasRow_of_mem 0xFFFF (by decide))

/-- A word is an instruction's own word, or R76 lists it. -/
theorem word_cases (w : Word) : (∃ i, IsWordOf w i) ∨ Unassigned w := by
  by_cases hrow : HasRow w
  · obtain ⟨r, hr, hs⟩ := hrow
    exact .inl ⟨_, opcodeRows_encode r hr w hs⟩
  · by_cases hop : opField w = 0
    · exact .inl ⟨_, isWordOf_sys_of_noRow hop hrow⟩
    · exact .inr (not_imp_comm.mp (hasRow_of_not_unassigned hop) hrow)

/-! ## The obligations -/

/-- Settles O3: the word is the own word of what it decodes to. -/
theorem encodeOfDecodeIsTheWord : Obligations.EncodeOfDecodeIsTheWord := by
  unfold Obligations.EncodeOfDecodeIsTheWord
  intro w i h
  rcases word_cases w with ⟨j, hj⟩ | hu
  · obtain rfl : j = i := Decoded.instr.inj (hj.decode_eq.symm.trans h)
    exact hj
  · exact nomatch hu.decode_eq.symm.trans h

/-- Settles O4: a row decodes the words it encodes; without a row, a word is SYS's in family 0 and listed
by R76 outside it. -/
theorem opcodeMapSelectsByMaskAndMatch : Obligations.OpcodeMapSelectsByMaskAndMatch := by
  unfold Obligations.OpcodeMapSelectsByMaskAndMatch
  refine ⟨rfl, fun r hr => rowDecodes_of_mem hr, fun w hno => ?_⟩
  have hrow : ¬ HasRow w := fun ⟨r, hr, hs⟩ => hno r hr hs
  refine ⟨fun r hr hs => ?_, fun hsys => ?_⟩
  · have hop : opField w = 0 := (rowSys_selects_iff hr w).mp hs
    obtain rfl := List.mem_singleton.mp hr
    exact (isWordOf_sys_of_noRow hop hrow).decode_eq
  · have hop : opField w ≠ 0 := fun h =>
      hsys _ (List.mem_singleton_self _) ((rowSys_selects_iff (List.mem_singleton_self _) w).mpr h)
    exact (not_imp_comm.mp (hasRow_of_not_unassigned hop) hrow).decode_eq

/-- Two rows whose matches agree on the bits that both masks keep are one row. -/
theorem row_unique_of_compatible : ∀ r ∈ opcodeRows, ∀ r' ∈ opcodeRows,
    r.2.1 &&& r'.1 = r'.2.1 &&& r.1 → r.1 = r'.1 ∧ r.2.1 = r'.2.1 := by decide

/-- Settles O5: a word that both rows select makes their matches agree on the bits both masks keep. -/
theorem opcodeRowsDoNotOverlap : Obligations.OpcodeRowsDoNotOverlap := by
  unfold Obligations.OpcodeRowsDoNotOverlap
  intro r hr r' hr' w hs hs'
  refine row_unique_of_compatible r hr r' hr' ?_
  calc r.2.1 &&& r'.1
      = w &&& r.1 &&& r'.1 := by rw [hs]
    _ = w &&& r'.1 &&& r.1 := by ac_rfl
    _ = r'.2.1 &&& r.1 := by rw [hs']

/-- Settles O6: the words that R76 lists are those that are no instruction's own. -/
theorem unknownWordsByFamily : Obligations.UnknownWordsByFamily := by
  unfold Obligations.UnknownWordsByFamily
  intro w u
  constructor
  · intro h
    rcases word_cases w with ⟨i, hi⟩ | hu
    · exact nomatch hi.decode_eq.symm.trans h
    · exact ⟨Decoded.unknown.inj (h.symm.trans hu.decode_eq), hu⟩
  · rintro ⟨rfl, hu⟩
    exact Unassigned.decode_eq hu

/-- Settles O1: fixed words, each decoded by evaluation. -/
theorem wordsOfTheSpecDecode : Obligations.WordsOfTheSpecDecode := by
  unfold Obligations.WordsOfTheSpecDecode
  decide

end Sys2Proof.Machine

/-!
PROOFS. The cycle (40_cycle.md): whose turn a step is, what the core's step runs and sends, the states in
which it runs nothing, and SYS, which does nothing.
-/

namespace Sys2Proof.Machine

/-! ## Whose turn it is (R97, R98) -/

/-- With nothing scheduled, the core acts. -/
theorem step_of_schedule_nil {s : State} (h : s.schedule = []) : step s = cycle s := by
  rw [step, nextStep, h]

/-- The first scheduled action is taken, and taken off the schedule. -/
theorem step_of_schedule_cons {s : State} {a : Action} {rest : List Action}
    (h : s.schedule = a :: rest) : step s = act a (s.setSchedule rest) := by
  rw [step, nextStep, h]

/-- When the turn is the core's, it acts on the state without that turn. -/
theorem step_of_core_turn {s : State} (h : s.schedule.headD .cycle = .cycle) :
    step s = cycle (s.setSchedule s.schedule.tail) := by
  rw [step_eq, h]
  rfl

/-- Settles O7: the schedule is empty or names an action. -/
theorem stepIsNextScheduledAction : Obligations.StepIsNextScheduledAction := by
  unfold Obligations.StepIsNextScheduledAction
  exact ⟨fun _ h => step_of_schedule_nil h, fun _ _ _ h => step_of_schedule_cons h⟩

/-! ## What the core runs (R90) -/

/-- A running core executes the instruction its fetched word decodes to, the load window closed. -/
theorem cycle_of_fetch {s : State} {w : Word} {i : Instr} (hr : s.run = .running)
    (hf : s.fetch = some w) (hd : decode w = .instr i) : cycle s = exec i s.closeLoad := by
  obtain ⟨hpc, rfl⟩ := (State.fetch_eq_some s w).mp hf
  rw [cycle_of_running hr, runningCycle_of_fetch (s := s.closeLoad) hpc]
  exact congrArg (execDecoded · s.closeLoad) hd

/-- Settles O8: on its turn the core executes what it fetches, and a fetch does not read the schedule. -/
theorem stepRunsTheDecodedInstruction : Obligations.StepRunsTheDecodedInstruction := by
  unfold Obligations.StepRunsTheDecodedInstruction
  intro s i hr hturn hpc hd
  rw [step_of_core_turn hturn]
  exact cycle_of_fetch (s := s.setSchedule s.schedule.tail) hr
    ((State.fetch_eq_some _ _).mpr ⟨hpc, rfl⟩) hd

/-! ## A placed word (log 12) -/

/-- A 16-bit word is its own table word. -/
theorem tableWord_toNat (w : Word) : tableWord 16 w.toNat = w := by
  rw [tableWord, Nat.mod_eq_of_lt w.isLt, BitVec.ofNat_toNat, BitVec.setWidth_eq]

/-- A word fits at the address where one is placed. -/
theorem State.fetchAddr_le (s : State) : s.fetchAddr.toNat + 2 ≤ 4096 := by
  unfold State.fetchAddr
  split
  · assumption
  · decide

/-- A placed word is the word fetched next: its two bytes are read where they were written. -/
theorem State.fetch_placeWord (s : State) (w : Word) : (s.placeWord w).fetch = some w := by
  have hhi := Memory.read_writeRange_inside s.mem s.fetchAddr.toNat [hiByte w, loByte w] 0 (by simp)
  have hlo := Memory.read_writeRange_inside s.mem s.fetchAddr.toNat [hiByte w, loByte w] 1 (by simp)
  refine (State.fetch_eq_some _ _).mpr ⟨s.fetchAddr_le, ?_⟩
  calc w = wordOfBytes (hiByte w) (loByte w) := (wordOfBytes_hiByte_loByte w).symm
    _ = _ := congrArg₂ wordOfBytes hhi.symm hlo.symm

/-- Settles O9: placing a word leaves the schedule empty, the core running and the word to be fetched. -/
theorem placedWordIsRunNext : Obligations.PlacedWordIsRunNext := by
  unfold Obligations.PlacedWordIsRunNext
  intro s w i hd
  rw [State.withFetchWord, tableWord_toNat]
  calc step (s.placeWord w) = cycle (s.placeWord w) := step_of_schedule_nil rfl
    _ = exec i (s.placeWord w).closeLoad := cycle_of_fetch rfl (s.fetch_placeWord w) hd

/-! ## What the core sends (R92) -/

/-- No instruction's effect sends an event. -/
@[simp] theorem effect_events (i : Instr) (s : State) : (effect i s).events = s.events := by
  cases i <;> simp [effect, State.skipIf_eq, State.setRegThenFlag, drawEffect]

/-- A step in `Running` sends nothing, a fault's `Fatal`, or an unknown word's `Diagnostic`. -/
theorem runningCycle_events {s t : State} (h : runningCycle s = .next t) :
    t.events = s.events ∨ (∃ k a, t.events = s.events ++ [.fatal k a]) ∨
      ∃ w, t.events = s.events ++ [.diagnostic s.pc w] := by
  rcases runningCycle_next h with ⟨i, -, -, rfl, -⟩ | ⟨-, k, a, -, -, rfl, -⟩ | ⟨-, rfl⟩ |
    ⟨w, -, -, rfl⟩
  · exact .inl (effect_events i s.advance)
  · exact .inr (.inl ⟨k, a, rfl⟩)
  · exact .inr (.inl ⟨.fetchOob, s.pc, rfl⟩)
  · exact .inr (.inr ⟨w, rfl⟩)

/-- A waiting core's step only lowers `draw` (R91). -/
theorem cycle_of_awaitingKey {s : State} {r : Reg} (h : s.run = .awaitingKey r) :
    cycle s = .next (s.setDraw false) := by
  rw [cycle, h]

/-- A faulted core has no step (R91, log 6). -/
theorem cycle_of_faulted {s : State} {k : FaultKind} {a : Word} (h : s.run = .faulted k a) :
    cycle s = .fault (.stopped k a) := by
  rw [cycle, h]

/-- Settles O18: a running core sends `Fatal`, `Diagnostic` or nothing, and a waiting one nothing. -/
theorem coreSendsNoBeep : Obligations.CoreSendsNoBeep := by
  unfold Obligations.CoreSendsNoBeep
  intro s t h
  cases hr : s.run with
  | running =>
    rw [cycle_of_running hr] at h
    rcases runningCycle_events h with he | ⟨k, a, he⟩ | ⟨w, he⟩
    · exact ⟨[], by simpa using he, by simp, by simp⟩
    · exact ⟨_, he, by simp, by simp⟩
    · exact ⟨_, he, by simp, by simp⟩
  | awaitingKey r =>
    obtain rfl := Host.Outcome.next.inj ((cycle_of_awaitingKey hr).symm.trans h)
    exact ⟨[], by simp, by simp, by simp⟩
  | faulted k a => exact nomatch (cycle_of_faulted hr).symm.trans h

/-! ## Steps that change nothing but `draw` (R91, R95, R99) -/

/-- Setting `draw` changes nothing else. -/
theorem changesOnlyIn_setDraw (s : State) (b : Bool) : changesOnlyIn [.draw] s (s.setDraw b) := by
  intro p hp
  cases p with
  | draw => exact absurd (by simp) hp
  | _ => rfl

/-- Settles O12: what the cycle is in each of the two run states. -/
theorem coreStepOutsideRunning : Obligations.CoreStepOutsideRunning := by
  unfold Obligations.CoreStepOutsideRunning
  exact ⟨fun s _ h => ⟨_, cycle_of_awaitingKey h, rfl, changesOnlyIn_setDraw s false⟩,
    fun _ _ _ h => cycle_of_faulted h⟩

/-- Settles O19: SYS takes what CLS and RET leave of family 0, and its effect is to change nothing. -/
theorem sysIsNoOp : Obligations.SysIsNoOp := by
  unfold Obligations.SysIsNoOp
  refine ⟨fun w h0 hcls hret => ?_, fun nnn s => ?_⟩
  · have hop : opField w = 0 := opField_of_mask h0 rfl
    exact (isWordOf_sys hop hcls hret).decode_eq
  · refine completes_seq (fun _ _ hdue => hdue) rfl rfl (fun p hpc hdraw _ => ?_) trivial
    cases p with
    | pc => exact absurd rfl hpc
    | draw => exact absurd rfl hdraw
    | _ => rfl

/-- A 12-bit address is inside memory, so the wrap leaves it alone (R72, R96). -/
theorem wrapAddr_addrOperand (h : Addr12) : wrapAddr (addrOperand h) = addrOperand h := by
  apply BitVec.eq_of_toNat_eq
  rw [wrapAddr_toNat, addrOperand_toNat, Nat.mod_eq_of_lt h.isLt]

/-- A state that has ended at `h` fetches its jump to itself. -/
theorem State.haltedAt_fetch {s : State} {h : Addr12} (hs : s.haltedAt h) :
    ∃ w, s.fetch = some w ∧ decode w = .instr (.jp h) := by
  obtain ⟨-, hpc, hin, hd⟩ := hs
  have hpcNat : s.pc.toNat = h.toNat := by rw [hpc, addrOperand_toNat]
  rw [← hpcNat] at hin hd
  exact ⟨_, (State.fetch_eq_some s _).mpr ⟨hin, rfl⟩, hd⟩

/-- A jump to the address it stands at leaves `pc` as it was: the step lowers `draw` and no more. -/
theorem exec_jp_self {s : State} {h : Addr12} (hpc : s.pc = addrOperand h) :
    exec (.jp h) s = .next (s.setDraw false) := by
  calc exec (.jp h) s
      = .next ((s.setDraw false).setPc (wrapAddr (addrOperand h))) := rfl
    _ = .next ((s.setDraw false).setPc s.pc) := by rw [wrapAddr_addrOperand, hpc]
    _ = .next (s.setDraw false) := rfl

/-- The core's step at a normal end closes the load window and lowers `draw` (R99, log 9). -/
theorem cycle_of_haltedAt {s : State} {h : Addr12} (hs : s.haltedAt h) :
    cycle s = .next (s.closeLoad.setDraw false) := by
  obtain ⟨w, hf, hd⟩ := State.haltedAt_fetch hs
  obtain ⟨hr, hpc, -⟩ := hs
  rw [cycle_of_fetch hr hf hd]
  exact exec_jp_self (s := s.closeLoad) hpc

/-- Settles O56: neither `draw` nor the load window is part of having ended. -/
theorem selfJumpKeepsTheEnd : Obligations.SelfJumpKeepsTheEnd := by
  unfold Obligations.SelfJumpKeepsTheEnd
  intro s h hs
  refine ⟨_, cycle_of_haltedAt hs, hs, rfl, fun p hp => ?_⟩
  cases p with
  | draw | loadOpen => exact absurd (by simp) hp
  | _ => rfl

end Sys2Proof.Machine

/-!
PROOFS. Control transfer (41_control_flow.md): RET, the two jumps and CALL, each from its effect, and the
pair CALL, RET from the two claims about its halves.
-/

namespace Sys2Proof.Machine

/-! ## Rows and frames -/

/-- A row decodes the words it selects; the place in `opcodeRows` is the row's number in R74 less 2. -/
theorem rowDecodes_of_getElem? {m c : Word} {f : Word → Instr} (n : Nat)
    (h : opcodeRows[n]? = some (m, c, f)) : rowDecodes m c f :=
  rowDecodes_of_mem (List.mem_of_getElem? h)

theorem Part.same.trans {p : Part} {s t u : State} (hst : p.same s t) (htu : p.same t u) :
    p.same s u := by
  cases p <;> exact Eq.trans htu hst

theorem Part.same_setPc {p : Part} (hpc : p ≠ .pc) (s : State) (a : Word) :
    p.same s (s.setPc a) := by
  cases p with
  | pc => exact absurd rfl hpc
  | _ => rfl

theorem Part.same_advance {p : Part} (hpc : p ≠ .pc) (hdraw : p ≠ .draw) (s : State) :
    p.same s s.advance := by
  cases p with
  | pc => exact absurd rfl hpc
  | draw => exact absurd rfl hdraw
  | _ => rfl

/-- A pop moves `sp` and clears nothing (R25, R26). -/
theorem Part.same_pop {p : Part} (hsp : p ≠ .sp) (s : State) : p.same s s.pop := by
  cases p with
  | sp => exact absurd rfl hsp
  | _ => rfl

/-- A push moves `sp` and writes one entry (R26). -/
theorem Part.same_push {p : Part} {s : State} (hsp : p ≠ .sp)
    (hslot : p ≠ .stack (pushSlot s.sp)) (a : Word) : p.same s (s.push a) := by
  cases p with
  | sp => exact absurd rfl hsp
  | stack j => exact (State.stackAt_push s a j).trans (if_neg fun hj => hslot (congrArg _ hj))
  | _ => rfl

/-- An instruction whose effect is to set `pc` changes nothing else but `draw` (R90). -/
theorem completes_setPc {i : Instr} {s : State} {a : Word} {target : Nat}
    (hn : ∀ k b, ¬ faultDueAt i s k b) (he : effect i s.advance = s.advance.setPc a)
    (ha : a.toNat = target) :
    completes i s target false (fun _ => False) (fun _ => True) := by
  refine completes_of hn ?_ ?_ ?_ trivial <;> rw [he]
  · rw [State.setPc_pc, ha]
  · rfl
  · exact fun p hpc hdraw _ => (Part.same_advance hpc hdraw s).trans (Part.same_setPc hpc _ a)

/-! ## The stack entry a push writes and a pop reads (R25, R26) -/

theorem pushSlot_eq {n : Fin 17} {k : Fin 16} (h : n.val = k.val) : pushSlot n = k :=
  Fin.ext ((pushSlot_val n (h ▸ k.isLt)).trans h)

theorem popSlot_eq {n : Fin 17} {k : Fin 16} (h : n.val = k.val + 1) : popSlot n = k :=
  Fin.ext (by rw [popSlot_val, h, Nat.add_sub_cancel])

/-- The address after an instruction below 0x1000 fits in 16 bits, so the advance does not wrap (R23). -/
theorem State.advance_pc_toNat {s : State} (h : s.pc.toNat < 4096) :
    s.advance.pc.toNat = s.pc.toNat + 2 := by
  rw [State.advance_pc, BitVec.toNat_add, show (2 : Word).toNat = 2 from rfl]
  omega

/-! ## The obligations -/

/-- RET with an entry in use takes `pc` from it and gives it up (R110). -/
theorem ret_completes {s : State} {k : Fin 16} (hsp : s.sp.val = k.val + 1) :
    completes .ret s (s.stackAt k).toNat false (fun p => p = .sp) (fun t => t.sp.val = k.val) := by
  have hnotDue : ∀ kind a, ¬ faultDueAt .ret s kind a := by
    rintro _ _ ⟨-, -, hempty⟩
    omega
  have hpopped : s.advance.popped = s.stackAt k := by
    rw [State.popped, State.advance_sp, popSlot_eq hsp, State.advance_stackAt]
  refine completes_of hnotDue ?_ rfl ?_ ?_
  · simp [effect, hpopped]
  · intro p hpc hdraw hframe
    exact ((Part.same_advance hpc hdraw s).trans (Part.same_pop hframe _)).trans
      (Part.same_setPc hpc _ _)
  · simp [effect, spDown_val, hsp]

/-- CALL with an entry free puts the address after it there and jumps (R112). -/
theorem call_completes (nnn : Addr12) {s : State} {k : Fin 16} (hsp : s.sp.val = k.val)
    (hpc : s.pc.toNat < 4096) :
    completes (.call nnn) s nnn.toNat false (fun p => p = .sp ∨ p = .stack k)
      (fun t => t.sp.val = k.val + 1 ∧ (t.stackAt k).toNat = s.pc.toNat + 2) := by
  have hnotDue : ∀ kind a, ¬ faultDueAt (.call nnn) s kind a := by
    rintro _ _ ⟨-, -, hfull⟩
    omega
  have hslot : pushSlot s.advance.sp = k := pushSlot_eq hsp
  refine completes_of hnotDue ?_ rfl ?_ ⟨?_, ?_⟩
  · simp [effect, addrOperand_toNat]
  · intro p hp hdraw hframe
    have hentry : p ≠ .stack (pushSlot s.advance.sp) := hslot ▸ fun e => hframe (.inr e)
    exact ((Part.same_advance hp hdraw s).trans
      (Part.same_push (fun e => hframe (.inl e)) hentry _)).trans (Part.same_setPc hp _ _)
  · simp [effect, spUp_val s.sp (hsp ▸ k.isLt), hsp]
  · rw [← State.advance_pc_toNat hpc, effect, State.wrapPc_stackAt, State.setPc_stackAt,
      State.stackAt_push, if_pos hslot.symm]

/-- Settles O20: the pop reads the entry below `sp`; at 0 the fault is due. -/
theorem retPopsOrUnderflows : Obligations.RetPopsOrUnderflows := by
  unfold Obligations.RetPopsOrUnderflows
  exact ⟨Laws.RoundTrip.ret rfl, fun _ _ hsp => ret_completes hsp,
    fun _ hempty => faults_of ⟨rfl, rfl, hempty⟩⟩

/-- Settles O21: both effects only set `pc`, and neither sum leaves 16 bits. -/
theorem jumpsReachTheirTargets : Obligations.JumpsReachTheirTargets := by
  unfold Obligations.JumpsReachTheirTargets
  refine ⟨rowDecodes_of_getElem? 2 rfl, rowDecodes_of_getElem? 20 rfl, fun nnn s => ⟨?_, ?_⟩⟩
  · exact completes_setPc (fun _ _ hdue => hdue) rfl (addrOperand_toNat nnn)
  · exact completes_setPc (fun _ _ hdue => hdue) rfl (indirectTarget_toNat nnn (s.reg 0))

/-- Settles O22: the push writes the entry at `sp`; at 16 the fault is due. -/
theorem callPushesOrOverflows : Obligations.CallPushesOrOverflows := by
  unfold Obligations.CallPushesOrOverflows
  exact ⟨rowDecodes_of_getElem? 3 rfl, fun nnn _ _ hsp hpc => call_completes nnn hsp hpc,
    fun _ _ hfull => faults_of ⟨rfl, rfl, hfull⟩⟩

/-- Settles O23: RET reads the entry that CALL wrote and takes `sp` back; what neither frame names is kept
through both. -/
theorem retAfterCallReturns : Obligations.RetAfterCallReturns := by
  unfold Obligations.RetAfterCallReturns
  intro nnn s hsp hpc
  obtain ⟨k, hk⟩ : ∃ k : Fin 16, s.sp.val = k.val := ⟨⟨_, hsp⟩, rfl⟩
  obtain ⟨t, ht, -, -, hst, htsp, htop⟩ := call_completes nnn hk hpc
  obtain ⟨u, hu, hupc, -, htu, husp⟩ := ret_completes htsp
  refine ⟨t, u, ht, hu, by rw [hupc, htop], fun p hp => ?_⟩
  obtain ⟨hp, hdraw, hstack⟩ : p ≠ .pc ∧ p ≠ .draw ∧ p ≠ .stack k :=
    ⟨fun e => hp (.inl e), fun e => hp (.inr (.inl e)), fun e => hp (.inr (.inr ⟨k, e, hk.symm⟩))⟩
  by_cases hpsp : p = .sp
  · subst hpsp
    exact Fin.ext (husp.trans hk.symm)
  · exact (hst p (by simp [hp, hdraw, hpsp, hstack])).trans
      (htu p (by simp [hp, hdraw, hpsp]))

end Sys2Proof.Machine

/-!
PROOFS. Skips (42_skips.md): what a completed skip does, once, and the six instructions as that skip on
their own condition.
-/

namespace Sys2Proof.Machine

/-! ## A completed skip (R120) -/

theorem Part.same_skipIf {p : Part} (hpc : p ≠ .pc) (s : State) (c : Bool) :
    p.same s (s.skipIf c) := by
  rw [State.skipIf_eq]
  exact Part.same_setPc hpc s _

/-- Where a skip from the advanced state leaves `pc`, before the wrap (R90, R96, R120). -/
theorem skipIf_advance_pc_mod (s : State) (c : Bool) :
    (s.advance.skipIf c).pc.toNat % 4096 =
      (if c then s.pc.toNat + 4 else s.pc.toNat + 2) % 4096 := by
  rw [State.skipIf_eq, State.setPc_pc, State.advance_pc, ← wrapAddr_toNat]
  cases c with
  | true => exact skipped_pc_toNat s.pc
  | false => exact advanced_pc_toNat s.pc

section Skip

variable {i : Instr} {s : State} {c : Bool} {p : Prop} [Decidable p]

/-- An instruction whose effect is to skip when `p` holds goes 4 bytes on then, 2 otherwise. -/
theorem completes_skip_when (hn : ∀ k a, ¬ faultDueAt i s k a)
    (he : effect i s.advance = s.advance.skipIf c) (hc : c = true ↔ p) :
    completes i s (if p then s.pc.toNat + 4 else s.pc.toNat + 2) false
      (fun _ => False) (fun _ => True) := by
  refine completes_of hn ?_ ?_ ?_ trivial <;> rw [he]
  · simpa only [hc] using skipIf_advance_pc_mod s c
  · rw [State.skipIf_eq]
    rfl
  · exact fun q hpc hdraw _ => (Part.same_advance hpc hdraw s).trans (Part.same_skipIf hpc _ c)

/-- An instruction whose effect is to skip unless `p` holds goes 2 bytes on then, 4 otherwise. -/
theorem completes_skip_unless (hn : ∀ k a, ¬ faultDueAt i s k a)
    (he : effect i s.advance = s.advance.skipIf c) (hc : c = true ↔ ¬ p) :
    completes i s (if p then s.pc.toNat + 2 else s.pc.toNat + 4) false
      (fun _ => False) (fun _ => True) := by
  rw [← ite_not]
  exact completes_skip_when hn he hc

end Skip

/-! ## The key a register names (R125, R126) -/

/-- The condition of a skip on the key `V[x]` names is about that key's state. -/
theorem any_key_of_reg {s : State} {x : Reg} {k : KeyIndex} (hk : (s.reg x).toNat = k.val)
    (b : Bool) :
    ((sixteenth (s.reg x)).any fun j => s.key j == b) = true ↔ s.key k = b := by
  rw [(sixteenth_eq_some _ k).mpr hk, Option.any_some, beq_iff_eq]

/-- A register that names a key raises no fault in `SKP`. -/
theorem not_faultDueAt_skp {s : State} {x : Reg} {k : KeyIndex} (hk : (s.reg x).toNat = k.val)
    (kind : FaultKind) (a : Word) : ¬ faultDueAt (.skp x) s kind a := by
  rintro ⟨-, -, habove⟩
  omega

/-- SKP on a register that names a key (R125). -/
theorem skp_completes {s : State} {x : Reg} {k : KeyIndex} (hk : (s.reg x).toNat = k.val) :
    completes (.skp x) s (if s.key k = true then s.pc.toNat + 4 else s.pc.toNat + 2) false
      (fun _ => False) (fun _ => True) :=
  completes_skip_when (not_faultDueAt_skp hk) rfl (any_key_of_reg (s := s.advance) hk true)

/-- SKNP on a register that names a key (R126); its fault is due when that of SKP is. -/
theorem sknp_completes {s : State} {x : Reg} {k : KeyIndex} (hk : (s.reg x).toNat = k.val) :
    completes (.sknp x) s (if s.key k = true then s.pc.toNat + 2 else s.pc.toNat + 4) false
      (fun _ => False) (fun _ => True) := by
  have hnotDue : ∀ kind a, ¬ faultDueAt (.sknp x) s kind a := not_faultDueAt_skp hk
  have hskip := any_key_of_reg (s := s.advance) hk false
  exact completes_skip_unless hnotDue rfl (hskip.trans Bool.eq_false_iff)

/-! ## The obligations -/

/-- Settles O24: no fault is due, and each skips on its own comparison of `V[x]` with the immediate. -/
theorem skipsOnImmediate : Obligations.SkipsOnImmediate := by
  unfold Obligations.SkipsOnImmediate
  refine ⟨rowDecodes_of_getElem? 4 rfl, rowDecodes_of_getElem? 5 rfl, fun x kk s => ⟨?_, ?_⟩⟩
  · exact completes_skip_when (fun _ _ hdue => hdue) rfl beq_iff_eq
  · exact completes_skip_unless (fun _ _ hdue => hdue) rfl bne_iff_ne

/-- Settles O25: no fault is due, and each skips on its own comparison of `V[x]` with `V[y]`. -/
theorem skipsOnRegisters : Obligations.SkipsOnRegisters := by
  unfold Obligations.SkipsOnRegisters
  refine ⟨rowDecodes_of_getElem? 6 rfl, rowDecodes_of_getElem? 18 rfl, fun x y s => ⟨?_, ?_⟩⟩
  · exact completes_skip_when (fun _ _ hdue => hdue) rfl beq_iff_eq
  · exact completes_skip_unless (fun _ _ hdue => hdue) rfl bne_iff_ne

/-- Settles O26: up to 15 the register names a key and no fault is due; above 15 one is due. -/
theorem skipsOnKey : Obligations.SkipsOnKey := by
  unfold Obligations.SkipsOnKey
  exact ⟨rowDecodes_of_getElem? 23 rfl, rowDecodes_of_getElem? 24 rfl,
    fun _ _ _ hk => ⟨skp_completes hk, sknp_completes hk⟩,
    fun _ _ habove => ⟨faults_of ⟨rfl, rfl, habove⟩, faults_of ⟨rfl, rfl, habove⟩⟩⟩

end Sys2Proof.Machine

/-!
PROOFS. Loads, arithmetic, logic, shifts and random (43_register_alu.md): an instruction that writes one
register, and one that writes a result and then a flag, once each; every instruction here but RND, which also
counts its draw, is one of the two.
-/

namespace Sys2Proof.Machine

/-! ## Frames of a register write -/

theorem Part.same_setReg {p : Part} {x : Reg} (hx : p ≠ .reg x) (s : State) (b : Byte) :
    p.same s (s.setReg x b) := by
  cases p with
  | reg r => exact State.reg_setReg_other s (fun hr => hx (congrArg _ hr)) b
  | _ => rfl

theorem Part.same_countDraw {p : Part} (hdraws : p ≠ .draws) (s : State) : p.same s s.countDraw := by
  cases p with
  | draws => exact absurd rfl hdraws
  | _ => rfl

section RegisterWrites

variable {i : Instr} {s : State} {x : Reg} {b f : Byte} {post : State → Prop}

/-- An instruction whose effect is to write `V[x]` completes with that byte there, and changes VF only
when `x` is 15. -/
theorem completes_setReg (hn : ∀ k a, ¬ faultDueAt i s k a)
    (he : effect i s.advance = s.advance.setReg x b) (hp : ∀ t : State, t.reg x = b → post t) :
    completes i s s.nextAddr false (fun p => p = .reg x) post := by
  refine completes_seq hn ?_ ?_ ?_ (hp _ ?_) <;> rw [he]
  · rfl
  · rfl
  · exact fun p hpc hdraw hx => (Part.same_advance hpc hdraw s).trans (Part.same_setReg hx _ b)
  · exact State.reg_setReg_same _ x b

/-- An instruction whose effect is to write a result and then a flag completes with the flag in VF, and
with the result in `V[x]` unless the flag has overwritten it (R131). -/
theorem completes_setRegThenFlag (hn : ∀ k a, ¬ faultDueAt i s k a)
    (he : effect i s.advance = s.advance.setRegThenFlag x b f)
    (hp : ∀ t : State, t.reg vf = f → (x ≠ vf → t.reg x = b) → post t) :
    completes i s s.nextAddr false (fun p => p = .reg x ∨ p = .reg vf) post := by
  refine completes_seq hn ?_ ?_ ?_ (hp _ ?_ fun hx => ?_) <;> rw [he]
  · rfl
  · rfl
  · intro p hpc hdraw hframe
    have hresult := Part.same_setReg (fun e => hframe (.inl e)) s.advance b
    have hflag := Part.same_setReg (fun e => hframe (.inr e)) (s.advance.setReg x b) f
    exact (Part.same_advance hpc hdraw s).trans (hresult.trans hflag)
  · rw [State.wrapPc_reg, State.reg_setRegThenFlag, if_pos rfl]
  · rw [State.wrapPc_reg, State.reg_setRegThenFlag, if_neg hx, if_pos rfl]

end RegisterWrites

/-! ## The flag conditions (R130) -/

theorem carryFlag_eq (a b : Byte) : carryFlag a b = if a.toNat + b.toNat > 255 then 1 else 0 := by
  simp only [carryFlag, flagByte, decide_eq_true_eq]

theorem noBorrowFlag_eq (a b : Byte) : noBorrowFlag a b = if a.toNat ≥ b.toNat then 1 else 0 := by
  simp only [noBorrowFlag, flagByte, decide_eq_true_eq]

/-- SUB and SUBN: the difference of two bytes and its no-borrow (R139, R141). -/
theorem completes_difference {i : Instr} {s : State} {x : Reg} {a b : Byte}
    (hn : ∀ k c, ¬ faultDueAt i s k c)
    (he : effect i s.advance = s.advance.setRegThenFlag x (diffByte a b) (noBorrowFlag a b)) :
    completes i s s.nextAddr false (fun p => p = .reg x ∨ p = .reg vf)
      (fun t => t.reg vf = (if a.toNat ≥ b.toNat then 1 else 0) ∧
        (x ≠ vf → ((t.reg x).toNat : Int) = (a.toNat - b.toNat : Int) % 256)) :=
  completes_setRegThenFlag hn he fun _ hflag hresult =>
    ⟨hflag.trans (noBorrowFlag_eq a b), fun hx => by rw [hresult hx, diffByte_toNat]⟩

/-! ## The obligations -/

/-- Settles O27: each effect writes `V[x]`, with the immediate and with the sum. -/
theorem immediateLoadAndAdd : Obligations.ImmediateLoadAndAdd := by
  unfold Obligations.ImmediateLoadAndAdd
  refine ⟨rowDecodes_of_getElem? 7 rfl, rowDecodes_of_getElem? 8 rfl, fun x kk s => ⟨?_, ?_⟩⟩
  · exact completes_setReg (fun _ _ hdue => hdue) rfl fun _ hx => hx
  · exact completes_setReg (fun _ _ hdue => hdue) rfl fun _ hx => by
      rw [hx, sumByte_toNat, State.advance_reg]

/-- Settles O28: each effect writes `V[x]`, from operands that the advance leaves alone. -/
theorem copyAndLogic : Obligations.CopyAndLogic := by
  unfold Obligations.CopyAndLogic
  refine ⟨rowDecodes_of_getElem? 9 rfl, rowDecodes_of_getElem? 10 rfl,
    rowDecodes_of_getElem? 11 rfl, rowDecodes_of_getElem? 12 rfl, fun x y s => ⟨?_, ?_, ?_, ?_⟩⟩
  all_goals exact completes_setReg (fun _ _ hdue => hdue) rfl fun _ hx => hx

/-- Settles O29: the effect writes the sum and then the carry, both of the old operands. -/
theorem addSetsCarry : Obligations.AddSetsCarry := by
  unfold Obligations.AddSetsCarry
  refine ⟨rowDecodes_of_getElem? 13 rfl, fun x y s => ?_⟩
  refine completes_setRegThenFlag (fun _ _ hdue => hdue) rfl fun t hflag hresult => ⟨?_, fun hx => ?_⟩
  · exact hflag.trans (carryFlag_eq (s.reg x) (s.reg y))
  · rw [hresult hx, sumByte_toNat, State.advance_reg, State.advance_reg]

/-- Settles O30: both effects write a difference and its no-borrow, with the operands exchanged. -/
theorem subtractSetsNoBorrow : Obligations.SubtractSetsNoBorrow := by
  unfold Obligations.SubtractSetsNoBorrow
  refine ⟨rowDecodes_of_getElem? 14 rfl, rowDecodes_of_getElem? 16 rfl, fun x y s => ⟨?_, ?_⟩⟩
  · exact completes_difference (fun _ _ hdue => hdue) rfl
  · exact completes_difference (fun _ _ hdue => hdue) rfl

/-- Settles O31: both effects write the shifted byte and then the bit put out; neither reads `V[y]`. -/
theorem shiftsByOneBit : Obligations.ShiftsByOneBit := by
  unfold Obligations.ShiftsByOneBit
  refine ⟨rowDecodes_of_getElem? 15 rfl, rowDecodes_of_getElem? 17 rfl, fun x y s => ⟨?_, ?_⟩⟩
  · refine completes_setRegThenFlag (fun _ _ hdue => hdue) rfl fun t hflag hresult => ⟨?_, fun hx => ?_⟩
    · rw [hflag, shrFlag_toNat, State.advance_reg]
    · rw [hresult hx, shrByte_toNat, State.advance_reg]
  · refine completes_setRegThenFlag (fun _ _ hdue => hdue) rfl fun t hflag hresult => ⟨?_, fun hx => ?_⟩
    · rw [hflag, shlFlag_toNat, State.advance_reg]
    · rw [hresult hx, shlByte_toNat, State.advance_reg]

/-- Settles O32: the effect writes `V[x]` and counts the draw, so it is not a register write alone. -/
theorem randomByteIsMasked : Obligations.RandomByteIsMasked := by
  unfold Obligations.RandomByteIsMasked
  refine ⟨rowDecodes_of_getElem? 21 rfl, fun x kk s => ?_⟩
  refine completes_seq (fun _ _ hdue => hdue) rfl rfl ?_ ⟨?_, rfl⟩
  · intro p hpc hdraw hframe
    have hreg := Part.same_setReg (fun e => hframe (.inl e)) s.advance (s.nextDraw &&& kk)
    exact ((Part.same_advance hpc hdraw s).trans hreg).trans
      (Part.same_countDraw (fun e => hframe (.inr e)) _)
  · exact State.reg_setReg_same s.advance x (s.nextDraw &&& kk)

end Sys2Proof.Machine

/-!
PROOFS. The index register and memory (44_index_memory.md): an instruction that sets `I`, one that writes
bytes at `I`, and FX65, once each; storing registers and loading them back from the claims about the two.
-/

namespace Sys2Proof.Machine

/-! ## Frames of writes to `I`, to memory at `I` and to the registers from memory -/

theorem Part.same_setI {p : Part} (hi : p ≠ .i) (s : State) (a : Word) : p.same s (s.setI a) := by
  cases p with
  | i => exact absurd rfl hi
  | _ => rfl

/-- A range written at `I` changes no byte but those of the span (R156). -/
theorem Part.same_writeAtI {p : Part} {s : State} {bs : List Byte} (hp : ¬ bytesAtI s bs.length p) :
    p.same s (s.setMem (s.mem.writeRange s.dataAddr bs)) := by
  cases p with
  | byte a =>
    have hout : a < s.dataAddr ∨ s.dataAddr + bs.length ≤ a :=
      (Nat.lt_or_ge a s.dataAddr).imp_right fun hge => Nat.le_of_not_lt fun hlt => hp ⟨a, rfl, hge, hlt⟩
    exact Memory.read_writeRange_outside s.mem s.dataAddr bs a hout
  | _ => rfl

/-- A new register file changes no register that it holds as before, and nothing else. -/
theorem Part.same_setV {p : Part} {s : State} {v : Vector Byte 16}
    (hv : ∀ r : Reg, p = .reg r → (s.setV v).reg r = s.reg r) : p.same s (s.setV v) := by
  cases p with
  | reg r => exact hv r rfl
  | _ => rfl

/-- FX65's transfer changes no register above `x` and nothing else (R155). -/
theorem Part.same_loadFromI {p : Part} {s : State} {x : Reg}
    (hp : ¬ ∃ r : Reg, p = .reg r ∧ r.val ≤ x.val) : p.same s (s.setV (s.regsFromMem x)) :=
  Part.same_setV fun r hpr => by
    rw [State.reg_regsFromMem, if_neg fun hr => hp ⟨r, hpr, hr⟩]

section IndexAndMemoryWrites

variable {i : Instr} {s : State}

/-- An instruction whose effect is to set `I` changes nothing else but `pc` and `draw`. -/
theorem completes_setI {a : Word} {n : Nat} (hn : ∀ k b, ¬ faultDueAt i s k b)
    (he : effect i s.advance = s.advance.setI a) (ha : a.toNat = n) :
    completes i s s.nextAddr false (fun p => p = .i) (fun t => t.i.toNat = n) := by
  refine completes_seq hn ?_ ?_ ?_ ?_ <;> rw [he]
  · rfl
  · rfl
  · exact fun p hpc hdraw hi => (Part.same_advance hpc hdraw s).trans (Part.same_setI hi _ a)
  · exact ha

/-- An instruction whose effect is to write bytes at `I` completes with memory so written, `I` and every
other byte as before. -/
theorem completes_writeAtI {bs : List Byte} {post : State → Prop}
    (hn : ∀ k a, ¬ faultDueAt i s k a)
    (he : effect i s.advance = s.advance.setMem (s.mem.writeRange s.dataAddr bs))
    (hp : ∀ t : State, t.mem = s.mem.writeRange s.dataAddr bs → post t) :
    completes i s s.nextAddr false (bytesAtI s bs.length) post := by
  refine completes_seq hn ?_ ?_ ?_ (hp _ ?_) <;> rw [he]
  · rfl
  · rfl
  · exact fun p hpc hdraw hbytes => (Part.same_advance hpc hdraw s).trans (Part.same_writeAtI hbytes)
  · rfl

end IndexAndMemoryWrites

/-! ## The decimal digits -/

/-- The decimal digits of a byte, each as the number it stands for (R153). -/
theorem bcdDigits_map_toNat (b : Byte) :
    (bcdDigits b).map BitVec.toNat = [b.toNat / 100, b.toNat / 10 % 10, b.toNat % 10] := by
  have hhundreds : b.toNat / 100 < 256 := by omega
  have htens : b.toNat / 10 % 10 < 256 := by omega
  have hunits : b.toNat % 10 < 256 := by omega
  simp [bcdDigits, Nat.mod_eq_of_lt hhundreds, Nat.mod_eq_of_lt htens, Nat.mod_eq_of_lt hunits]

/-- Digit `k` of a byte is read back at `a + k` from where the digits were written (R153). -/
theorem Memory.read_writeRange_bcdDigits (m : Memory) (a : Nat) (b : Byte) {k : Nat} (hk : k < 3) :
    ((m.writeRange a (bcdDigits b)).read (a + k)).toNat =
      [b.toNat / 100, b.toNat / 10 % 10, b.toNat % 10][k] := by
  rw [Memory.read_writeRange_inside m a (bcdDigits b) k hk]
  exact (List.getElem_map BitVec.toNat).symm.trans (List.getElem_of_eq (bcdDigits_map_toNat b) hk)

/-! ## The instructions that complete only when their operand or span is in range -/

/-- FX29 with a digit in `V[x]` (R152). -/
theorem ldF_completes {x : Reg} {s : State} (hx : (s.reg x).toNat ≤ 15) :
    completes (.ldF x) s s.nextAddr false (fun p => p = .i)
      (fun t => t.i.toNat = fontBase + 5 * (s.reg x).toNat) := by
  have hdigit : sixteenth (s.advance.reg x) = some ⟨(s.reg x).toNat, by omega⟩ :=
    (sixteenth_eq_some _ _).mpr rfl
  have hnotDue : ∀ kind a, ¬ faultDueAt (.ldF x) s kind a :=
    fun _ _ hdue => Nat.not_lt_of_ge hx hdue.2.2
  exact completes_setI hnotDue (by rw [effect, hdigit, Option.map_some, Option.getD_some]) (glyphAddr_toNat _)

/-- FX33 with its three bytes inside memory (R153). -/
theorem ldB_completes {x : Reg} {s : State} (hin : s.i.toNat + 3 ≤ 4096) :
    completes (.ldB x) s s.nextAddr false (bytesAtI s 3)
      (fun t => (t.mem.read s.dataAddr).toNat = (s.reg x).toNat / 100 ∧
        (t.mem.read (s.dataAddr + 1)).toNat = (s.reg x).toNat / 10 % 10 ∧
        (t.mem.read (s.dataAddr + 2)).toNat = (s.reg x).toNat % 10) := by
  have hnotDue : ∀ kind a, ¬ faultDueAt (.ldB x) s kind a :=
    fun _ _ hdue => Nat.not_lt_of_ge hin hdue.2.2
  refine completes_writeAtI (bs := bcdDigits (s.reg x)) hnotDue rfl fun t hmem => ?_
  have hdigit (k : Nat) (hk : k < 3) := Memory.read_writeRange_bcdDigits s.mem s.dataAddr (s.reg x) hk
  rw [hmem]
  exact ⟨hdigit 0 (by decide), hdigit 1 (by decide), hdigit 2 (by decide)⟩

/-- FX55 with its span inside memory (R154). -/
theorem storeRegs_completes {x : Reg} {s : State} (hin : s.i.toNat + x.val + 1 ≤ 4096) :
    completes (.storeRegs x) s s.nextAddr false (bytesAtI s (x.val + 1))
      (fun t => ∀ r : Reg, r.val ≤ x.val → t.mem.read (s.dataAddr + r.val) = s.reg r) := by
  have hnotDue : ∀ kind a, ¬ faultDueAt (.storeRegs x) s kind a :=
    fun _ _ hdue => Nat.not_lt_of_ge hin hdue.2.2
  rw [← State.length_regsUpTo s x]
  refine completes_writeAtI hnotDue rfl fun t hmem r hr => ?_
  rw [hmem]
  exact read_effect_storeRegs s hr

/-- FX65 with its span inside memory (R155). -/
theorem loadRegs_completes {x : Reg} {s : State} (hin : s.i.toNat + x.val + 1 ≤ 4096) :
    completes (.loadRegs x) s s.nextAddr false (fun p => ∃ r : Reg, p = .reg r ∧ r.val ≤ x.val)
      (fun t => ∀ r : Reg, r.val ≤ x.val → t.reg r = s.mem.read (s.dataAddr + r.val)) := by
  have hnotDue : ∀ kind a, ¬ faultDueAt (.loadRegs x) s kind a :=
    fun _ _ hdue => Nat.not_lt_of_ge hin hdue.2.2
  refine completes_seq hnotDue rfl rfl ?_ fun r hr => ?_
  · exact fun p hpc hdraw hregs => (Part.same_advance hpc hdraw s).trans (Part.same_loadFromI hregs)
  · exact (State.reg_regsFromMem s.advance x r).trans (if_pos hr)

/-! ## The obligations -/

/-- Settles O35: inside memory the digits are read back where they were written; past it the fault is due. -/
theorem bcdDigitsAreStored : Obligations.BcdDigitsAreStored := by
  unfold Obligations.BcdDigitsAreStored
  exact ⟨rowDecodes_of_getElem? 31 rfl, fun _ _ hin => ldB_completes hin,
    fun _ _ hout => faults_of ⟨rfl, rfl, hout⟩⟩

/-- Settles O36: inside memory the registers are read back where they were written; past it the fault is
due. -/
theorem registersAreStored : Obligations.RegistersAreStored := by
  unfold Obligations.RegistersAreStored
  exact ⟨rowDecodes_of_getElem? 32 rfl, fun _ _ hin => storeRegs_completes hin,
    fun _ _ hout => faults_of ⟨rfl, rfl, hout⟩⟩

/-- Settles O37: inside memory the transfer replaces `V[0..x]` alone; past it the fault is due. -/
theorem registersAreLoaded : Obligations.RegistersAreLoaded := by
  unfold Obligations.RegistersAreLoaded
  exact ⟨rowDecodes_of_getElem? 33 rfl, fun _ _ hin => loadRegs_completes hin,
    fun _ _ hout => faults_of ⟨rfl, rfl, hout⟩⟩

/-- Settles O38: the store keeps `I`, so the load reads the very bytes the store has written; what neither
frame names is kept through both. -/
theorem loadAfterStoreRestores : Obligations.LoadAfterStoreRestores := by
  unfold Obligations.LoadAfterStoreRestores
  intro x s hin
  obtain ⟨t, ht, -, -, hst, hstored⟩ := storeRegs_completes hin
  have hi : t.i = s.i := hst .i (by simp [bytesAtI])
  obtain ⟨u, hu, -, -, htu, hloaded⟩ := loadRegs_completes (x := x) (s := t) (hi ▸ hin)
  refine ⟨t, u, ht, hu, fun p hp => ?_, fun a => htu (.byte a) (by simp)⟩
  by_cases hreg : ∃ r : Reg, p = .reg r ∧ r.val ≤ x.val
  · obtain ⟨r, rfl, hr⟩ := hreg
    calc u.reg r = t.mem.read (s.dataAddr + r.val) := by
          rw [hloaded r hr, State.dataAddr, State.dataAddr, hi]
      _ = s.reg r := hstored r hr
  · have hrest : ¬ (p = .pc ∨ p = .draw ∨ ∃ r : Reg, p = .reg r ∧ r.val ≤ x.val) :=
      fun h => hp (h.imp_right (.imp_right fun h => absurd h hreg))
    exact (hst p hp).trans (htu p hrest)

/-- Settles O33: both effects set `I`, ANNN to an address that fits and FX1E to the sum reduced. -/
theorem indexLoadAndAdd : Obligations.IndexLoadAndAdd := by
  unfold Obligations.IndexLoadAndAdd
  refine ⟨rowDecodes_of_getElem? 19 rfl, rowDecodes_of_getElem? 29 rfl, fun nnn s => ?_, fun x s => ?_⟩
  · exact completes_setI (fun _ _ hdue => hdue) rfl (addrOperand_toNat nnn)
  · exact completes_setI (fun _ _ hdue => hdue) rfl (indexSum_toNat s.i (s.reg x))

/-- Settles O34: up to 15 the register is a digit with a glyph; above 15 the fault is due. -/
theorem glyphAddressOrRangeFault : Obligations.GlyphAddressOrRangeFault := by
  unfold Obligations.GlyphAddressOrRangeFault
  exact ⟨rowDecodes_of_getElem? 30 rfl, fun _ _ hx => ldF_completes hx,
    fun _ _ habove => faults_of ⟨rfl, rfl, habove⟩⟩

end Sys2Proof.Machine

/-!
PROOFS. Timers and keys (45_timers_keys.md): the timer instructions and FX0A from the one piece each
writes, the ticks and the key events from the updates they make, and the key wait from entry to end.
-/

namespace Sys2Proof.Machine

/-! ## Frames of updates to one piece, and of updates in turn -/

theorem Part.same_setDt {p : Part} (hdt : p ≠ .dt) (s : State) (b : Byte) : p.same s (s.setDt b) := by
  cases p with
  | dt => exact absurd rfl hdt
  | _ => rfl

theorem Part.same_setSt {p : Part} (hst : p ≠ .st) (s : State) (b : Byte) : p.same s (s.setSt b) := by
  cases p with
  | st => exact absurd rfl hst
  | _ => rfl

theorem Part.same_setRun {p : Part} (hrun : p ≠ .run) (s : State) (r : RunState) :
    p.same s (s.setRun r) := by
  cases p with
  | run => exact absurd rfl hrun
  | _ => rfl

theorem Part.same_setLastKey {p : Part} (hlast : p ≠ .lastKey) (s : State) (k : Option KeyIndex) :
    p.same s (s.setLastKey k) := by
  cases p with
  | lastKey => exact absurd rfl hlast
  | _ => rfl

theorem Part.same_setKey {p : Part} {k : KeyIndex} (hk : p ≠ .key k) (s : State) (b : Bool) :
    p.same s (s.setKey k b) := by
  cases p with
  | key j => exact (State.key_setKey s k j b).trans (if_neg fun hj => hk (congrArg _ hj))
  | _ => rfl

@[simp] theorem State.key_setKey_same (s : State) (k : KeyIndex) (b : Bool) :
    (s.setKey k b).key k = b := by
  rw [State.key_setKey, if_pos rfl]

/-- The events of a sound-timer tick: one `Beep` more exactly when `ST` is 1 (R165). -/
theorem State.beepIfLast_eq (s : State) :
    s.beepIfLast = { s with events := s.events ++ (if s.st = 1 then [.beep] else []) } := by
  unfold State.beepIfLast
  split
  · rfl
  · rw [List.append_nil]

theorem Part.same_beepIfLast {p : Part} (hevents : p ≠ .events) (s : State) :
    p.same s s.beepIfLast := by
  rw [State.beepIfLast_eq]
  cases p with
  | events => exact absurd rfl hevents
  | _ => rfl

/-- What keeps every piece but one changes only that one. -/
theorem changesOnlyIn_singleton {q : Part} {s t : State} (h : ∀ p, p ≠ q → p.same s t) :
    changesOnlyIn [q] s t :=
  fun p hp => h p fun e => hp (List.mem_singleton.mpr e)

/-- Of two changes in turn, each stays within its own frame. -/
theorem changesOnlyIn.trans {l l' : List Part} {s t u : State} (hst : changesOnlyIn l s t)
    (htu : changesOnlyIn l' t u) : changesOnlyIn (l ++ l') s u :=
  fun p hp => (hst p fun h => hp (List.mem_append_left _ h)).trans
    (htu p fun h => hp (List.mem_append_right _ h))

theorem changesOnlyIn.mono {l l' : List Part} {s t : State} (h : changesOnlyIn l s t)
    (hl : l ⊆ l') : changesOnlyIn l' s t :=
  fun p hp => h p fun hmem => hp (hl hmem)

/-! ## The timer instructions and FX0A (R160 to R163) -/

/-- An instruction whose effect changes one piece alone, neither `pc` nor `draw`, completes in sequence. -/
theorem completes_onePiece {i : Instr} {s : State} {q : Part} {post : State → Prop}
    (hn : ∀ k a, ¬ faultDueAt i s k a) (hpc : (effect i s.advance).pc = s.pc + 2)
    (hd : (effect i s.advance).draw = false)
    (hf : ∀ p, p ≠ q → p.same s.advance (effect i s.advance))
    (hp : post (effect i s.advance).wrapPc) :
    completes i s s.nextAddr false (fun p => p = q) post :=
  completes_seq hn hpc hd
    (fun p hpc hdraw hq => (Part.same_advance hpc hdraw s).trans (hf p hq)) hp

/-- Settles O39: FX07 writes one register; FX15 and FX18 write one timer and no event. -/
theorem timerInstructionsMoveBytes : Obligations.TimerInstructionsMoveBytes := by
  unfold Obligations.TimerInstructionsMoveBytes
  refine ⟨rowDecodes_of_getElem? 25 rfl, rowDecodes_of_getElem? 27 rfl,
    rowDecodes_of_getElem? 28 rfl, fun x s => ⟨?_, ?_, ?_⟩⟩
  · exact completes_setReg (fun _ _ hdue => hdue) rfl fun _ hx => hx
  · exact completes_onePiece (fun _ _ hdue => hdue) rfl rfl
      (fun _ hdt => Part.same_setDt hdt s.advance (s.reg x)) rfl
  · exact completes_onePiece (fun _ _ hdue => hdue) rfl rfl
      (fun _ hst => Part.same_setSt hst s.advance (s.reg x)) rfl

/-- Settles O40: the effect writes `run` alone, without looking at a key. -/
theorem keyWaitIsEntered : Obligations.KeyWaitIsEntered := by
  unfold Obligations.KeyWaitIsEntered
  refine ⟨rowDecodes_of_getElem? 26 rfl, fun x s => ?_⟩
  exact completes_onePiece (fun _ _ hdue => hdue) rfl rfl
    (fun _ hrun => Part.same_setRun hrun s.advance (.awaitingKey x)) rfl

/-! ## The ticks (R164, R165) -/

/-- A positive timer counted down is one less, without a borrow. -/
theorem toNat_sub_one_add_one {b : Byte} (hb : b ≠ 0) : (b - 1).toNat + 1 = b.toNat := by
  bv_omega

theorem tickDt_of_positive {s : State} (hl : s.live = true) (hdt : s.dt ≠ 0) :
    act .tickDt s = .next (s.setDt (s.dt - 1)) :=
  (tickDt_eq_next s _).mpr ⟨hl, hdt, rfl⟩

theorem tickSt_of_positive {s : State} (hl : s.live = true) (hst : s.st ≠ 0) :
    act .tickSt s = .next (s.beepIfLast.setSt (s.st - 1)) :=
  (tickSt_eq_next s _).mpr ⟨hl, hst, rfl⟩

/-- `tick_st` changes `ST` and the events sent alone. -/
theorem changesOnlyIn_tickSt (s : State) (b : Byte) :
    changesOnlyIn [.st, .events] s (s.beepIfLast.setSt b) :=
  ((changesOnlyIn_singleton fun _ h => Part.same_beepIfLast h s).trans
    (changesOnlyIn_singleton fun _ h => Part.same_setSt h s.beepIfLast b)).mono (by simp)

/-- Settles O42: a positive timer is taken down by one; a tick is allowed only then, and while live. -/
theorem ticksCountDownToZero : Obligations.TicksCountDownToZero := by
  unfold Obligations.TicksCountDownToZero
  refine ⟨fun s hl hdt => ?_, fun s hl hst => ?_, fun s t hnot ht => ?_, fun s t hnot ht => ?_⟩
  · exact ⟨_, tickDt_of_positive hl hdt, toNat_sub_one_add_one hdt,
      changesOnlyIn_singleton fun _ h => Part.same_setDt h s _⟩
  · exact ⟨_, tickSt_of_positive hl hst, toNat_sub_one_add_one hst,
      congrArg State.events s.beepIfLast_eq, changesOnlyIn_tickSt s _⟩
  · obtain ⟨hl, hdt, -⟩ := (tickDt_eq_next s t).mp ht
    exact hnot.elim hdt (Bool.eq_false_iff.mp · hl)
  · obtain ⟨hl, hst, -⟩ := (tickSt_eq_next s t).mp ht
    exact hnot.elim hst (Bool.eq_false_iff.mp · hl)

/-! ## The key events (R166, R167) -/

theorem State.live_of_running {s : State} (h : s.run = .running) : s.live = true := by
  rw [State.live, h]

theorem State.live_of_awaitingKey {s : State} {r : Reg} (h : s.run = .awaitingKey r) :
    s.live = true := by
  rw [State.live, h]

theorem State.resolveWait_of_running {s : State} (h : s.run = .running) (k : KeyIndex) :
    s.resolveWait k = s := by
  rw [State.resolveWait, h]

theorem State.resolveWait_of_awaitingKey {s : State} {r : Reg} (h : s.run = .awaitingKey r)
    (k : KeyIndex) : s.resolveWait k = (s.setReg r (keyByte k)).setRun .running := by
  rw [State.resolveWait, h]

/-- The state with the press of a key noted, before any wait is ended (R166). -/
def State.notePress (s : State) (k : KeyIndex) : State := (s.setKey k true).setLastKey (some k)

theorem changesOnlyIn_notePress (s : State) (k : KeyIndex) :
    changesOnlyIn [.key k, .lastKey] s (s.notePress k) :=
  (changesOnlyIn_singleton fun _ h => Part.same_setKey h s true).trans
    (changesOnlyIn_singleton fun _ h => Part.same_setLastKey h _ (some k))

/-- The end of a wait changes the waiting register and `run` alone (R167). -/
theorem changesOnlyIn_endWait (s : State) (r : Reg) (b : Byte) :
    changesOnlyIn [.reg r, .run] s ((s.setReg r b).setRun .running) :=
  (changesOnlyIn_singleton fun _ h => Part.same_setReg h s b).trans
    (changesOnlyIn_singleton fun _ h => Part.same_setRun h _ .running)

/-- A press in `Running` is noted and no more (R166). -/
theorem keyDown_of_running {s : State} (h : s.run = .running) (k : KeyIndex) :
    act (.keyDown k) s = .next (s.notePress k) :=
  (hostKeyDown_eq_next k s _).mpr ⟨State.live_of_running h,
    (State.resolveWait_of_running (s := s.notePress k) h k).symm⟩

/-- A press in a key wait is noted, and the waiting register takes the key (R167). -/
theorem keyDown_of_awaitingKey {s : State} {r : Reg} (h : s.run = .awaitingKey r) (k : KeyIndex) :
    act (.keyDown k) s = .next (((s.notePress k).setReg r (keyByte k)).setRun .running) :=
  (hostKeyDown_eq_next k s _).mpr ⟨State.live_of_awaitingKey h,
    (State.resolveWait_of_awaitingKey (s := s.notePress k) h k).symm⟩

/-- A release clears its key (R166). -/
theorem keyUp_of_live {s : State} (h : s.live = true) (k : KeyIndex) :
    act (.keyUp k) s = .next (s.setKey k false) :=
  (hostKeyUp_eq_next k s _).mpr ⟨h, rfl⟩

/-- Settles O43: what each event makes of the state, as updates in turn. -/
theorem keyEventsSetKeysAndEndWaits : Obligations.KeyEventsSetKeysAndEndWaits := by
  unfold Obligations.KeyEventsSetKeysAndEndWaits
  refine ⟨fun k s hr => ?_, fun k r s hr => ?_, fun k s hl => ?_⟩
  · exact ⟨_, keyDown_of_running hr k, State.key_setKey_same s k true, rfl,
      changesOnlyIn_notePress s k⟩
  · refine ⟨_, keyDown_of_awaitingKey hr k, State.key_setKey_same s k true, rfl, ?_, rfl, ?_⟩
    · rw [State.setRun_reg, State.reg_setReg_same, keyByte_toNat]
    · exact (changesOnlyIn_notePress s k).trans (changesOnlyIn_endWait (s.notePress k) r (keyByte k))
  · exact ⟨_, keyUp_of_live hl k, State.key_setKey_same s k false,
      changesOnlyIn_singleton fun _ h => Part.same_setKey h s false⟩

/-! ## The key wait, from FX0A to its end (R163, R167, R211) -/

/-- FX0A has only one outcome: the wait for `x`, with `pc` past it. -/
theorem exec_ldVxK_next {x : Reg} {s t : State} (h : exec (.ldVxK x) s = .next t) :
    t.run = .awaitingKey x ∧ t.pc.toNat = (s.pc.toNat + 2) % 4096 := by
  obtain ⟨t', ht', hpc, -, -, hrun⟩ := keyWaitIsEntered.2 x s
  obtain rfl := Host.Outcome.next.inj (ht'.symm.trans h)
  exact ⟨hrun, hpc⟩

/-- In a key wait, an action that is neither a press nor a reset keeps `run`, `pc` and the registers. -/
theorem act_keeps_wait {x : Reg} {a : Action} {t u : State} (hr : t.run = .awaitingKey x)
    (hpress : ∀ d, a ≠ .keyDown d) (hreset : a ≠ .reset) (h : act a t = .next u) :
    u.run = t.run ∧ u.pc = t.pc ∧ ∀ r, u.reg r = t.reg r := by
  cases a with
  | keyDown d => exact absurd rfl (hpress d)
  | reset => exact absurd rfl hreset
  | cycle =>
    obtain rfl := Host.Outcome.next.inj ((cycle_of_awaitingKey hr).symm.trans h)
    exact ⟨rfl, rfl, fun _ => rfl⟩
  | load rom =>
    obtain ⟨-, -, -, rfl⟩ := (hostLoad_eq_next rom t u).mp h
    exact ⟨rfl, rfl, fun _ => rfl⟩
  | keyUp k =>
    obtain ⟨-, rfl⟩ := (hostKeyUp_eq_next k t u).mp h
    exact ⟨rfl, rfl, fun _ => rfl⟩
  | tickDt =>
    obtain ⟨-, -, rfl⟩ := (tickDt_eq_next t u).mp h
    exact ⟨rfl, rfl, fun _ => rfl⟩
  | tickSt =>
    obtain ⟨-, -, rfl⟩ := (tickSt_eq_next t u).mp h
    rw [State.beepIfLast_eq]
    exact ⟨rfl, rfl, fun _ => rfl⟩

@[simp] theorem State.resetBlock_reg (s : State) (r : Reg) : s.resetBlock.reg r = 0 :=
  Vector.getElem_replicate r.isLt

/-- Settles O41: FX0A leaves a wait that every other action keeps; a press ends it as a press
ends any wait, and `pc` is not in its frame. -/
theorem keyWaitEndsAtFirstPress : Obligations.KeyWaitEndsAtFirstPress := by
  unfold Obligations.KeyWaitEndsAtFirstPress
  intro x k j s t h
  obtain ⟨hrun, hpc⟩ := exec_ldVxK_next h
  have hlive : t.live = true := State.live_of_awaitingKey hrun
  refine ⟨fun a u hpress hreset hu => ?_, ⟨_, keyUp_of_live hlive j⟩, ⟨_, cycle_of_awaitingKey hrun⟩,
    fun hdt => ⟨_, tickDt_of_positive hlive hdt⟩, fun hst => ⟨_, tickSt_of_positive hlive hst⟩, ?_, ?_⟩
  · obtain ⟨hkept, hrest⟩ := act_keeps_wait hrun hpress hreset hu
    exact ⟨hkept.trans hrun, hrest⟩
  · obtain ⟨-, hwaiting, -⟩ := keyEventsSetKeysAndEndWaits
    obtain ⟨u, hu, -, -, hkey, hrunning, hframe⟩ := hwaiting k x t hrun
    have hupc : u.pc = t.pc := hframe .pc (by simp)
    exact ⟨u, hu, hrunning, hkey, hupc ▸ hpc, hframe.mono (by simp)⟩
  · exact ⟨_, (hostReset_eq_next t _).mpr ⟨hlive, rfl⟩, rfl, State.resetBlock_reg t⟩

end Sys2Proof.Machine

/-!
PROOFS. The graphics unit (46_graphics.md): CLS and DRW from the pixels and the flag each writes, and two
draws in a row from what the first one keeps.
-/

namespace Sys2Proof.Machine

/-! ## Frames of updates to the screen and to `draw` -/

theorem Part.same_setScreen {p : Part} (hpx : ¬ ∃ x y, p = .px x y) (s : State) (q : Screen) :
    p.same s (s.setScreen q) := by
  cases p with
  | px x y => exact absurd ⟨x, y, rfl⟩ hpx
  | _ => rfl

theorem Part.same_setDraw {p : Part} (hdraw : p ≠ .draw) (s : State) (b : Bool) :
    p.same s (s.setDraw b) := by
  cases p with
  | draw => exact absurd rfl hdraw
  | _ => rfl

/-- DRW's effect writes pixels, VF and `draw` alone (R182). -/
theorem Part.same_drawEffect {p : Part} (hdraw : p ≠ .draw) (hp : ¬ (p = .reg vf ∨ ∃ c r, p = .px c r))
    (x y : Reg) (n : Nibble) (t : State) : p.same t (drawEffect x y n t) := by
  obtain ⟨hflag, hpx⟩ := not_or.mp hp
  exact (Part.same_setScreen hpx t _).trans
    ((Part.same_setReg hflag _ _).trans (Part.same_setDraw hdraw _ true))

/-! ## The collision flag (R181) -/

theorem flagByte_eq_one_iff (c : Bool) : flagByte c = 1 ↔ c = true := by
  cases c <;> decide

theorem flagByte_eq_one_or_zero (c : Bool) : flagByte c = 1 ∨ flagByte c = 0 := by
  cases c <;> decide

/-- A lit pixel under a set bit is one that a draw turns off. -/
theorem drawSprite_hit_iff_turnedOff (vx vy : Byte) (rows : List Byte) (p : Screen) :
    (drawSprite vx vy rows p).2 = true ↔
      ∃ c r, p.px c r = true ∧ (drawSprite vx vy rows p).1.px c r = false := by
  rw [drawSprite_hit]
  refine exists₂_congr fun c r => and_comm.trans (and_congr_right fun hlit => ?_)
  rw [px_drawSprite, hlit, Bool.true_xor, Bool.not_eq_false']

/-! ## DRW with its span inside memory -/

/-- The bit that DRW's sprite has on each pixel of the screen, from the state it executes in (R182). -/
def State.spriteAt (s : State) (x y : Reg) (n : Nibble) (c : Fin 64) (r : Fin 32) : Bool :=
  spriteBit (s.reg x) (s.reg y) (s.mem.readRange s.dataAddr n.toNat) c r

theorem px_drawEffect (x y : Reg) (n : Nibble) (t : State) (c : Fin 64) (r : Fin 32) :
    (drawEffect x y n t).screen.px c r = (t.screen.px c r ^^ t.spriteAt x y n c r) :=
  px_drawSprite _ _ _ t.screen c r

/-- VF takes DRW's collision bit, also when `x` or `y` is 15 (R182). -/
theorem drawEffect_reg_vf (x y : Reg) (n : Nibble) (t : State) :
    (drawEffect x y n t).reg vf = flagByte
      (drawSprite (t.reg x) (t.reg y) (t.mem.readRange t.dataAddr n.toNat) t.screen).2 :=
  State.reg_setReg_same (t.setScreen _) vf _

/-- VF after DRW's effect: 1 exactly when it turned a lit pixel off (R182). -/
theorem drawEffect_reg_vf_eq_one_iff (x y : Reg) (n : Nibble) (t : State) :
    (drawEffect x y n t).reg vf = 1 ↔
      ∃ c r, t.screen.px c r = true ∧ (drawEffect x y n t).screen.px c r = false := by
  rw [drawEffect_reg_vf, flagByte_eq_one_iff]
  exact drawSprite_hit_iff_turnedOff _ _ _ t.screen

theorem drawEffect_reg_vf_eq_one_or_zero (x y : Reg) (n : Nibble) (t : State) :
    (drawEffect x y n t).reg vf = 1 ∨ (drawEffect x y n t).reg vf = 0 := by
  rw [drawEffect_reg_vf]
  exact flagByte_eq_one_or_zero _

/-- DRW with its `n` bytes inside memory (R181, R182). -/
theorem drw_completes (x y : Reg) {n : Nibble} {s : State} (hin : s.i.toNat + n.toNat ≤ 4096) :
    completes (.drw x y n) s s.nextAddr true (fun p => p = .reg vf ∨ ∃ c r, p = .px c r)
      (fun t =>
        (∀ c r, t.screen.px c r = (s.screen.px c r ^^ s.spriteAt x y n c r)) ∧
        (t.reg vf = 1 ∨ t.reg vf = 0) ∧
        (t.reg vf = 1 ↔ ∃ c r, s.screen.px c r = true ∧ t.screen.px c r = false)) := by
  have hnotDue : ∀ kind a, ¬ faultDueAt (.drw x y n) s kind a :=
    fun _ _ hdue => Nat.not_lt_of_ge hin hdue.2.2
  refine completes_seq hnotDue rfl rfl ?_ ⟨?_, ?_, ?_⟩
  · exact fun p hpc hdraw hp =>
      (Part.same_advance hpc hdraw s).trans (Part.same_drawEffect hdraw hp x y n s.advance)
  · exact px_drawEffect x y n s.advance
  · exact drawEffect_reg_vf_eq_one_or_zero x y n s.advance
  · exact drawEffect_reg_vf_eq_one_iff x y n s.advance

/-- DRW draws the same sprite in two states that agree on its coordinates, `I` and memory. -/
theorem State.spriteAt_congr {s t : State} {x y : Reg} (hx : t.reg x = s.reg x) (hy : t.reg y = s.reg y)
    (hi : t.i = s.i) (hmem : t.mem = s.mem) (n : Nibble) : t.spriteAt x y n = s.spriteAt x y n := by
  funext c r
  rw [State.spriteAt, State.spriteAt, State.dataAddr, State.dataAddr, hx, hy, hi, hmem]

/-! ## The obligations -/

/-- Settles O45: DRW's effect flips the pixels under the sprite, and past memory the fault is due. -/
theorem drawSpriteXorsAndCollides : Obligations.DrawSpriteXorsAndCollides := by
  unfold Obligations.DrawSpriteXorsAndCollides
  exact ⟨rowDecodes_of_getElem? 22 rfl, fun x y _ _ hin => drw_completes x y hin,
    fun _ _ _ _ hout => faults_of ⟨rfl, rfl, hout⟩⟩

/-- Settles O46: DRW keeps `I` and memory, so with its coordinates kept the second draw flips the same
pixels back; a pixel it turns off is one that the first had lit. -/
theorem doubleDrawRestoresScreen : Obligations.DoubleDrawRestoresScreen := by
  unfold Obligations.DoubleDrawRestoresScreen
  intro x y n s hin
  obtain ⟨t, ht, -, -, hframe, hfirst, -⟩ := drw_completes x y hin
  have hreg {z : Reg} (hz : z ≠ vf) : t.reg z = s.reg z := hframe (.reg z) (by simp [hz])
  have hi : t.i = s.i := hframe .i (by simp)
  obtain ⟨-, -, -, -, -, hkept, -⟩ := onlyTheseInstructionsWrite (.drw x y n) s t ht
  have hmem : t.mem = s.mem := hkept nofun nofun
  refine ⟨t, ht, ⟨hreg, hreg⟩, fun hx hy => ?_⟩
  obtain ⟨u, hu, -, -, -, hsecond, -, hflag⟩ := drw_completes x y (s := t) (hi ▸ hin)
  have hback (c : Fin 64) (r : Fin 32) : u.screen.px c r = s.screen.px c r := by
    rw [hsecond, hfirst, State.spriteAt_congr hx hy hi hmem, Bool.xor_assoc, Bool.xor_self,
      Bool.xor_false]
  refine ⟨u, hu, hback, hflag.trans (exists₂_congr fun c r => ?_)⟩
  rw [hback, hfirst]
  exact and_congr_left fun hunlit => by rw [hunlit, Bool.false_xor, State.spriteAt]

/-- Settles O44: CLS's effect writes the screen and `draw`, whatever was lit before. -/
theorem clearScreenUnlightsAll : Obligations.ClearScreenUnlightsAll := by
  unfold Obligations.ClearScreenUnlightsAll
  refine ⟨by decide, fun s => completes_seq (fun _ _ hdue => hdue) rfl rfl ?_ Screen.px_clear⟩
  exact fun p hpc hdraw hpx => (Part.same_advance hpc hdraw s).trans
    ((Part.same_setScreen hpx _ Screen.clear).trans (Part.same_setDraw hdraw _ true))

end Sys2Proof.Machine

/-!
PROOFS. Exceptions (60_exceptions.md): a running core's step raises the fault that R191's table makes due
and ends in `Faulted` for no other reason; an unknown word is tolerated; and `Faulted` has no exit.
-/

namespace Sys2Proof.Machine

/-! ## When a fault is due (R191, R192) -/

/-- With the fetch out of bounds, the fault due is `FETCH_OOB` and no other. -/
theorem faultDue_iff_of_fetchOob {s : State} (hout : s.pc.toNat + 2 > 4096) {k : FaultKind}
    {a : Word} : faultDue s k a ↔ k = .fetchOob ∧ a = s.pc := by
  rw [faultDue, if_pos hout]

/-- With the fetch in bounds, the faults due are those of the instruction at `pc`. -/
theorem faultDue_iff_of_fetch {s : State} (hin : s.pc.toNat + 2 ≤ 4096) {k : FaultKind} {a : Word} :
    faultDue s k a ↔
      ∃ i, decode (wordOfBytes (s.mem.read s.pc.toNat) (s.mem.read (s.pc.toNat + 1))) = .instr i ∧
        faultDueAt i s k a := by
  rw [faultDue, if_neg (Nat.not_lt_of_ge hin)]

/-- `FETCH_OOB` is due only when the fetch is out of bounds: no instruction raises it. -/
theorem fetchOob_of_faultDue {s : State} {a : Word} (hdue : faultDue s .fetchOob a) :
    s.pc.toNat + 2 > 4096 := by
  by_contra hin
  obtain ⟨i, -, hi⟩ := (faultDue_iff_of_fetch (Nat.le_of_not_gt hin)).mp hdue
  exact (faultDueAt_record hi).2 rfl

/-! ## What a running core's step does about faults (R190) -/

/-- A running core raises the fault that is due, on the state with the load window closed. -/
theorem cycle_of_faultDue {s : State} {k : FaultKind} {a : Word} (hr : s.run = .running)
    (hdue : faultDue s k a) : cycle s = raiseFault k a s.closeLoad := by
  by_cases hin : s.pc.toNat + 2 ≤ 4096
  · obtain ⟨i, hd, hi⟩ := (faultDue_iff_of_fetch hin).mp hdue
    rw [cycle_of_fetch hr ((State.fetch_eq_some s _).mpr ⟨hin, rfl⟩) hd]
    exact exec_eq_raise (by rwa [faultDueAt_closeLoad])
  · have hout := Nat.lt_of_not_ge hin
    obtain ⟨rfl, rfl⟩ := (faultDue_iff_of_fetchOob hout).mp hdue
    rw [cycle_of_running hr]
    exact runningCycle_of_fetchOob (s := s.closeLoad) hout

/-- No effect ends a running core in `Faulted`: faults are raised before any effect (R198). -/
theorem effect_run_ne_faulted {s : State} (hr : s.run = .running) (i : Instr) (k : FaultKind)
    (a : Word) : (effect i s).run ≠ .faulted k a := by
  rcases effect_run i s with h | ⟨x, h⟩
  · rw [h, hr]; exact nofun
  · rw [h]; exact nofun

/-- A running core's step ends in `Faulted` only with a fault that is due. -/
theorem faultDue_of_cycle_faulted {s t : State} {k : FaultKind} {a : Word} (hr : s.run = .running)
    (ht : cycle s = .next t) (hf : t.run = .faulted k a) : faultDue s k a := by
  rw [cycle_of_running hr] at ht
  rcases runningCycle_next ht with ⟨i, -, -, rfl, -⟩ | ⟨i, k', a', hin, hd, rfl, hi⟩ | ⟨hout, rfl⟩ |
    ⟨w, -, -, rfl⟩
  · exact absurd hf (effect_run_ne_faulted (s := s.closeLoad.advance) hr i k a)
  · cases hf
    exact (faultDue_iff_of_fetch (s := s) hin).mpr ⟨i, hd, by rwa [faultDueAt_closeLoad] at hi⟩
  · cases hf
    exact (faultDue_iff_of_fetchOob (s := s) hout).mpr ⟨rfl, rfl⟩
  · exact nomatch hr.symm.trans hf

/-- The one state a running core's step can leave in `Faulted(k, a)`. -/
theorem eq_raised_of_cycle_faulted {s t : State} {k : FaultKind} {a : Word} (hr : s.run = .running)
    (ht : cycle s = .next t) (hf : t.run = .faulted k a) :
    t = (s.closeLoad.setRun (.faulted k a)).emit (.fatal k a) :=
  (raiseFault_eq k a s.closeLoad t).mp
    ((cycle_of_faultDue hr (faultDue_of_cycle_faulted hr ht hf)).symm.trans ht)

/-- A running core's step ends in `Faulted` exactly when the table makes that fault due. -/
theorem cycle_faulted_iff {s t : State} (hr : s.run = .running) (ht : cycle s = .next t)
    (k : FaultKind) (a : Word) : t.run = .faulted k a ↔ faultDue s k a := by
  refine ⟨faultDue_of_cycle_faulted hr ht, fun hdue => ?_⟩
  rw [cycle_of_faultDue hr hdue] at ht
  rw [(raiseFault_eq k a _ t).mp ht]
  rfl

/-- What a word decodes to is executed to a next state, an unknown word too (R94). -/
theorem execDecoded_answers_next (d : Decoded) (s : State) : ∃ t, execDecoded d s = .next t := by
  cases d with
  | instr i => exact exec_answers_next i s
  | unknown w => exact ⟨_, rfl⟩

/-- A running core's step always answers a next state. -/
theorem cycle_answers_next {s : State} (hr : s.run = .running) : ∃ t, cycle s = .next t := by
  rw [cycle_of_running hr]
  by_cases hin : s.pc.toNat + 2 ≤ 4096
  · rw [runningCycle_of_fetch (s := s.closeLoad) hin]
    exact execDecoded_answers_next _ _
  · exact ⟨_, runningCycle_of_fetchOob (s := s.closeLoad) (Nat.lt_of_not_ge hin)⟩

/-! ## The obligations about faults -/

/-- Settles O15: the step answers the raised fault, which writes `run` and the events alone. -/
theorem faultIsPrecise : Obligations.FaultIsPrecise := by
  unfold Obligations.FaultIsPrecise
  exact fun s t k a hr ht hf => eq_raised_of_cycle_faulted hr ht hf

/-- Settles O16: the step answers, is faulted exactly when a fault is due, and then keeps `pc`. -/
theorem faultsAreThoseOfTheTable : Obligations.FaultsAreThoseOfTheTable := by
  unfold Obligations.FaultsAreThoseOfTheTable
  refine ⟨fun s hr => ?_, rfl⟩
  obtain ⟨t, ht⟩ := cycle_answers_next hr
  refine ⟨t, ht, cycle_faulted_iff hr ht, fun k a hf => ?_⟩
  rw [eq_raised_of_cycle_faulted hr ht hf]
  rfl

/-- Settles O11: out of bounds the fetch fault is due; in bounds only instructions raise faults, and never
that one. -/
theorem fetchPastMemoryFaults : Obligations.FetchPastMemoryFaults := by
  unfold Obligations.FetchPastMemoryFaults
  refine ⟨fun s hr hout => ?_, fun s t a hr ht hf =>
    fetchOob_of_faultDue (faultDue_of_cycle_faulted hr ht hf)⟩
  have hdue : faultDue s .fetchOob s.pc := (faultDue_iff_of_fetchOob hout).mpr ⟨rfl, rfl⟩
  refine ⟨_, cycle_of_faultDue hr hdue, rfl, rfl, fun p hp => ?_⟩
  cases p with
  | run | events | loadOpen => exact absurd (by simp) hp
  | _ => rfl

/-! ## Unknown words (R94, R197) -/

/-- A running core sends an unknown word's diagnostic and moves on. -/
theorem cycle_of_unknown {s : State} {u : Word} (hr : s.run = .running)
    (hin : s.pc.toNat + 2 ≤ 4096)
    (hd : decode (wordOfBytes (s.mem.read s.pc.toNat) (s.mem.read (s.pc.toNat + 1))) = .unknown u) :
    cycle s = .next (s.closeLoad.advance.emit (.diagnostic s.pc u)).wrapPc := by
  rw [cycle_of_running hr, runningCycle_of_fetch (s := s.closeLoad) hin]
  exact congrArg (execDecoded · s.closeLoad) hd

/-- Settles O10: the word reported is the word fetched, since decoding carries an unknown word raw. -/
theorem unknownWordIsTolerated : Obligations.UnknownWordIsTolerated := by
  unfold Obligations.UnknownWordIsTolerated
  intro s u hr hin hd
  obtain ⟨hraw, -⟩ := (unknownWordsByFamily _ u).mp hd
  subst hraw
  refine ⟨_, cycle_of_unknown hr hin hd, advanced_pc_toNat s.pc, rfl, rfl, fun p hp => ?_⟩
  cases p with
  | pc | draw | events | loadOpen => exact absurd (by simp) hp
  | _ => rfl

/-! ## `Faulted` has no exit (R97, R200) -/

/-- An action answers a next state only while the core is live, whichever agent takes it. -/
theorem live_of_act {a : Action} {s t : State} (h : act a s = .next t) : s.live = true := by
  cases a with
  | cycle =>
    refine (State.live_iff s).mpr fun k addr hf => ?_
    exact nomatch (cycle_of_faulted hf).symm.trans h
  | reset => exact ((hostReset_eq_next s t).mp h).1
  | load rom => exact ((hostLoad_eq_next rom s t).mp h).1
  | keyDown k => exact ((hostKeyDown_eq_next k s t).mp h).1
  | keyUp k => exact ((hostKeyUp_eq_next k s t).mp h).1
  | tickDt => exact ((tickDt_eq_next s t).mp h).1
  | tickSt => exact ((tickSt_eq_next s t).mp h).1

/-- Settles O17: whatever answers a next state started live, and a faulted core is not. -/
theorem faultedHasNoExit : Obligations.FaultedHasNoExit := by
  unfold Obligations.FaultedHasNoExit
  exact fun s t k addr a hf h => (State.live_iff s).mp (live_of_act h) k addr hf

end Sys2Proof.Machine

/-!
PROOFS. Reset and program load (70_reset_and_hazards.md): what reset puts into each piece of state, the
glyph set in an unlisted memory, and the image that load writes in its window.
-/

namespace Sys2Proof.Machine

/-! ## Memory at reset (R40, R45) -/

@[simp] theorem length_fontData : fontData.length = 80 := rfl

/-- Away from the glyph set, an unlisted address reads as 0. -/
theorem Memory.unlisted_outside_font {a : Nat} (ha : a < fontBase ∨ fontBase + 80 ≤ a) :
    Memory.unlisted a = 0 := by
  have hglyph : fontBase ≤ a → glyphByte a = 0 := fun hle => by
    rw [glyphByte, List.getElem?_eq_none (by rw [length_fontData]; omega), Option.getD_none]
  unfold Memory.unlisted
  split
  · exact ite_eq_right_iff.mpr hglyph
  · rfl

/-- Byte `k` of the glyph set is what address `FONT_BASE + k` reads as when it is unlisted: the set
ends below `PROGRAM_BASE` (D11). -/
theorem Memory.unlisted_font {k : Nat} (hk : k < 80) :
    some (Memory.unlisted (fontBase + k)) = fontData[k]? := by
  have hbelow : fontBase + k < 0x200 := by have := fontBase_le; omega
  have hk' : k < fontData.length := by rwa [length_fontData]
  rw [Memory.unlisted, if_pos hbelow, if_pos (Nat.le_add_right _ _), glyphByte,
    Nat.add_sub_cancel_left, List.getElem?_eq_getElem hk', Option.getD_some]

/-! ## Reset (R210, R211) -/

@[simp] theorem State.resetBlock_stackAt (s : State) (k : Fin 16) : s.resetBlock.stackAt k = 0 :=
  Vector.getElem_replicate k.isLt

@[simp] theorem State.resetBlock_key (s : State) (k : KeyIndex) : s.resetBlock.key k = false :=
  Vector.getElem_replicate k.isLt

/-- The block after reset differs from the reset state in the model's own fields alone (log 16). -/
theorem changesOnlyIn_resetBlock (s : State) :
    changesOnlyIn [.draws, .events, .schedule] State.reset s.resetBlock := by
  intro p hp
  cases p with
  | draws | events | schedule => exact absurd (by simp) hp
  | _ => rfl

/-- A reset is answered whenever the core is live, in a key wait too (R211). -/
theorem reset_of_live {s : State} (hl : s.live = true) : act .reset s = .next s.resetBlock :=
  (hostReset_eq_next s _).mpr ⟨hl, rfl⟩

/-- No action answers a next state while the core is faulted (R97, R200). -/
theorem act_ne_next_of_not_live {s : State} (hl : s.live = false) (a : Action) (t : State) :
    act a s ≠ .next t :=
  fun h => Bool.false_ne_true (hl.symm.trans (live_of_act h))

/-- Settles O51: the block after reset holds the reset state, whose memory lists nothing. -/
theorem resetRestoresEveryValue : Obligations.ResetRestoresEveryValue := by
  unfold Obligations.ResetRestoresEveryValue
  refine ⟨fun s t hl => act_ne_next_of_not_live hl .reset t, fun s hl => ?_, rfl⟩
  exact ⟨s.resetBlock, reset_of_live hl, rfl, rfl, rfl, rfl, rfl, rfl, rfl, rfl,
    State.resetBlock_reg s, State.resetBlock_stackAt s, Screen.px_clear, State.resetBlock_key s,
    fun _ => Memory.unlisted_outside_font, fun k => Memory.unlisted_font k.isLt,
    rfl, rfl, rfl, rfl, changesOnlyIn_resetBlock s⟩

/-! ## Program load (R212, R97) -/

/-- A range written to memory changes no piece of state but the bytes of its span (R55). -/
theorem changesOnly_writeRange (s : State) (a : Nat) (bs : List Byte) :
    changesOnly (fun p => ∃ b, p = .byte b ∧ a ≤ b ∧ b < a + bs.length) s
      (s.setMem (s.mem.writeRange a bs)) := by
  intro p hp
  cases p with
  | byte b =>
    have hout : b < a ∨ a + bs.length ≤ b := by
      by_contra hin
      exact hp ⟨b, rfl, by omega, by omega⟩
    exact Memory.read_writeRange_outside s.mem a bs b hout
  | _ => rfl

/-- An image that does not fit is refused whole (R212, log 19). -/
theorem hostLoad_of_not_fits {rom : List Byte} {s : State} (hl : s.live = true)
    (ho : s.loadOpen = true) (hlong : ¬ romFits rom) : hostLoad rom s = .refused .loadError := by
  rw [hostLoad, whileLive, if_pos hl, if_pos ho, if_neg hlong]

/-- Neither an instruction, a fault nor an unknown word touches the load window: the cycle step closes it
before the fetch (log 9). -/
theorem runningCycle_loadOpen {s t : State} (h : runningCycle s = .next t) :
    t.loadOpen = s.loadOpen := by
  rcases runningCycle_next h with ⟨i, -, -, rfl, -⟩ | ⟨-, k, a, -, -, rfl, -⟩ | ⟨-, rfl⟩ |
    ⟨w, -, -, rfl⟩
  · exact effect_loadOpen i s.advance
  all_goals rfl

/-- A running core's step leaves the load window closed (R97, log 9). -/
theorem loadOpen_of_running_cycle {s t : State} (hr : s.run = .running) (h : cycle s = .next t) :
    t.loadOpen = false := by
  rw [cycle_of_running hr] at h
  exact runningCycle_loadOpen h

/-- Settles O52: a load is answered in its window alone, and what it writes is the image's span. -/
theorem loadWritesTheImage : Obligations.LoadWritesTheImage := by
  unfold Obligations.LoadWritesTheImage
  refine ⟨fun rom s hl ho => ⟨fun hfits => ?_, fun hlong => ?_⟩, fun rom s t hshut h => ?_,
    fun s t => loadOpen_of_running_cycle⟩
  · refine ⟨_, (hostLoad_eq_next rom s _).mpr ⟨hl, ho, hfits, rfl⟩, fun k => ?_,
      changesOnly_writeRange s 0x200 rom⟩
    exact Memory.read_writeRange_inside s.mem 0x200 rom k.val k.isLt
  · exact hostLoad_of_not_fits hl ho (Nat.not_le_of_gt hlong)
  · obtain ⟨hl, ho, -⟩ := (hostLoad_eq_next rom s t).mp h
    rcases hshut with hclosed | hfaulted
    · exact Bool.false_ne_true (hclosed.symm.trans ho)
    · exact Bool.false_ne_true (hfaulted.symm.trans hl)

end Sys2Proof.Machine
